-- ==== Sys2Proof/Word.lean ====
section
/-!
DEFINITION. The words of the block (00_scope.md R4, R5): a register or operand of 16 bits, a byte, a nibble,
and the 20-bit event word of 30_encoding.md R63. All values are unsigned (R5).
-/

namespace Sys2Proof

/-- A 16-bit register or operand (00_scope.md R4). -/
abbrev Word := BitVec 16

/-- A byte (R5). -/
abbrev Byte := BitVec 8

/-- A nibble: half a byte (R5). -/
abbrev Nibble := BitVec 4

/-- An event word: `op` in bits 19:16, `arg` in bits 15:0 (30_encoding.md R63). -/
abbrev EventWord := BitVec 20

end Sys2Proof
end

