-- ==== Sys2Proof/Config.lean ====
section
/-!
DEFINITION. What an implementation of the block fixes (00_scope.md R4), and the one free value of the spec
(93_implementation_defined.md U1, U2).
-/

namespace Sys2Proof

/-- The two byte buffers (20_memory.md R40). -/
inductive Buffer where
  /-- `BUF`, the receive buffer (10_state.md R32). -/
  | buf
  /-- `TXBUF`, the transmit buffer (10_state.md R33). -/
  | txbuf
  deriving DecidableEq, Repr

/-- The parameters of one block. `T_TICK` is not among them: no rule of the block uses it (00_scope.md R4). -/
structure Config where
  /-- `BUF_CAP`, the capacity in bytes of `BUF` and of `TXBUF`; the default is 256 (R4; log 2). -/
  bufCap : Nat := 256
  deriving DecidableEq, Repr

/-- Free value (log 3): the byte that a read of a buffer cell finds when nothing has written that cell since
power-on, "any value (a draw at the RD)" (93_implementation_defined.md U1, U2; 20_memory.md R49).
The arguments are the number of the draw, the buffer and the index. It has no body, so no proof can
know its value. -/
opaque Config.freeByte (draw : Nat) (b : Buffer) (index : Nat) : Byte

end Sys2Proof
end

