-- ==== Sys2Proof/Machine/State.lean ====
section
/-!
DEFINITION. The state of the block as plain data (10_state.md R10 to R38), the state after reset at power-on, and
the ways a step can stop.
-/

namespace Sys2Proof.Machine

/-- `ST`, the receive state (10_state.md R24). -/
inductive RxState where
  /-- 0: no receive started since reset. -/
  | idle
  /-- 1: reading bytes, timeout running. -/
  | recv
  /-- 2: a frame was terminated and validated. -/
  | done
  /-- 3: the receive ended with an error. -/
  | fail
  deriving DecidableEq, Repr

/-- The error kinds a receive can end with; the values 1, 2, 6, 7 of `ERR` are never produced and have no
constructor (10_state.md R25, 93_implementation_defined.md U10; log 9). -/
inductive RxError where
  /-- 3 (60_exceptions.md R154). -/
  | readTimeout
  /-- 4 (60_exceptions.md R155). -/
  | malformedFrame
  /-- 5 (60_exceptions.md R156). -/
  | checksumFailure
  deriving DecidableEq, Repr

/-- The five error kinds of the numbering of 60_exceptions.md R150. -/
inductive ErrorKind where
  | invalidCommand
  | deviceUnavailable
  | readTimeout
  | malformedFrame
  | checksumFailure
  deriving DecidableEq, Repr

/-- `MODE`, the termination strategy (10_state.md R26). -/
inductive Strategy where
  /-- 0: scan for the terminator. -/
  | scan
  /-- 1: fixed length. -/
  | fixed
  deriving DecidableEq, Repr

/-- The registers that have a number (10_state.md R11, R23); `RDATA` has none (R22). -/
inductive Reg where
  | status
  | acc
  | crcout
  | wptr
  | flen
  | paylen
  | tmr
  | tlimit
  | explen
  | txlen
  deriving DecidableEq, Repr

/-- What the ports present in one clock cycle with `rst_n` high (30_encoding.md R71): a word on the host port if
`cmd_valid`, a byte on the line port if `rx_valid`, and `tick`. -/
structure PortCycle where
  cmd : Option EventWord
  rx : Option Byte
  tick : Bool
  deriving DecidableEq, Repr

/-- An item of the input of the block (log 1): a clock cycle of the ports, or `rst_n` held low
(70_reset_and_hazards.md R170; log 6). -/
inductive Input where
  | cycle (c : PortCycle)
  | resetPin
  deriving DecidableEq, Repr

/-- The cells of one buffer that have been written since power-on: index and byte, indexes strictly rising. A cell
that is not listed has no value (10_state.md R32, R33; 20_memory.md R49). -/
abbrev Memory := List Host.Cell

/-- The whole state (10_state.md R10). `STATUS` is held as its fields (R23); its word is `statusWord`. -/
structure State where
  /-- The parameter `BUF_CAP`; no event writes it (00_scope.md R4; log 2). -/
  cfg : Config
  /-- `STATUS.ST` (R24). -/
  st : RxState
  /-- `STATUS.ERR`; `none` is the value 0 (R25). -/
  err : Option RxError
  /-- `STATUS.MODE` (R26). -/
  mode : Strategy
  /-- `STATUS.TXRDY` (R27). -/
  txrdy : Bool
  /-- `STATUS.TXERR` (R28). -/
  txerr : Bool
  /-- `STATUS.ILL` (R29). -/
  ill : Bool
  /-- `STATUS.SEQ` (R30). -/
  seq : Bool
  /-- `ACC`, the raw CRC accumulator (R13). -/
  acc : Word
  /-- `CRCOUT`, the escaped CRC pair of the last CRC_FIN (R14). -/
  crcout : Word
  /-- `WPTR`, the receive write offset (R15). -/
  wptr : Word
  /-- `FLEN`, the length of the terminated frame (R16). -/
  flen : Word
  /-- `PAYLEN`, the payload length of a validated frame (R17). -/
  paylen : Word
  /-- `TMR`, ticks since RX_START (R18). -/
  tmr : Word
  /-- `TLIMIT`, the timeout window in ticks (R19). -/
  tlimit : Word
  /-- `EXPLEN`, the frame length of fixed mode (R20). -/
  explen : Word
  /-- `TXLEN`, the number of valid bytes in `TXBUF` (R21). -/
  txlen : Word
  /-- `RDATA`, the result of the last RD (R22). -/
  rdata : Word
  /-- `BUF` (R32). -/
  buf : Memory
  /-- `TXBUF` (R33). -/
  txbuf : Memory
  /-- The model's own: what the ports are still to present, first item first (log 1). -/
  inputs : List Input
  /-- The model's own: the number of the next free draw (log 3, log 4). -/
  draws : Nat
  deriving DecidableEq, Repr

/-- Power-on followed by reset: every register at its value of 10_state.md R37, no buffer cell with a value
(70_reset_and_hazards.md R172). -/
def State.reset : State where
  cfg := { bufCap := 256 }
  st := .idle
  err := none
  mode := .scan
  txrdy := false
  txerr := false
  ill := false
  seq := false
  acc := 0
  crcout := 0
  wptr := 0
  flen := 0
  paylen := 0
  tmr := 0
  tlimit := 0
  explen := 0
  txlen := 0
  rdata := 0
  buf := []
  txbuf := []
  inputs := []
  draws := 0

/-- Why a step stops. No error of the spec is here: those are latched status (60_exceptions.md R150). -/
inductive Fault where
  /-- Raised by `memWrite` alone, for a store to an index outside 0 to `BUF_CAP`-1, a cell that does not exist
  (20_memory.md R40, R46). Safe: the model stops where the spec gives no effect, and no state that
  meets the invariant of 10_state.md R36 reaches it (log 5). -/
  | noSuchCell (b : Buffer) (index : Nat)
  deriving DecidableEq, Repr

/-- Why an instruction has no meaning in the model. -/
inductive Refusal where
  /-- Raised by an arm of `exec` whose instruction is not modelled; no arm of this model raises it. Safe. -/
  | notModelled (mnemonic : String)
  deriving DecidableEq, Repr

end Sys2Proof.Machine
end

