-- ==== Sys2Proof/Syntax.lean ====
section
/-!
DEFINITION. The 14 events of the block, one constructor per row of spec/opcode_table.json
(30_encoding.md R66), with the operand of the row's form (R64).
-/

namespace Sys2Proof

/-- An event, the block's instruction (30_encoding.md R66). -/
inductive Instr where
  /-- NOP (44_host_access.md R140). -/
  | nop
  /-- RST (44_host_access.md R141). -/
  | rst
  /-- CRC_CLR (40_crc.md R90). -/
  | crcClr
  /-- CRC_BYTE b (40_crc.md R91). -/
  | crcByte (b : Byte)
  /-- CRC_FIN (40_crc.md R92). -/
  | crcFin
  /-- TX_CLR (41_tx_encoder.md R101). -/
  | txClr
  /-- TX_PUT b (41_tx_encoder.md R102). -/
  | txPut (b : Byte)
  /-- TX_END (41_tx_encoder.md R103). -/
  | txEnd
  /-- SET_TLIMIT v (42_rx_framer.md R111). -/
  | setTlimit (v : Word)
  /-- SET_EXPLEN v (42_rx_framer.md R112). -/
  | setExplen (v : Word)
  /-- RX_START m (42_rx_framer.md R113). -/
  | rxStart (m : BitVec 1)
  /-- RX_BYTE b (42_rx_framer.md R114). -/
  | rxByte (b : Byte)
  /-- TICK (42_rx_framer.md R119). -/
  | tick
  /-- RD a (44_host_access.md R142). -/
  | rd (a : Word)
  deriving DecidableEq, Repr

end Sys2Proof
end

