-- ==== Sys2Proof/Machine/Ops.lean ====
section
/-!
DEFINITION. The named operations over the buffers and the registers: single-byte access to a cell, raising an error
kind and leaving a terminal state, refusing an event, the illegal word, reset.
-/

namespace Sys2Proof.Machine

/-- The outcome of a step of the block. -/
abbrev Result := Host.Outcome State Fault Refusal

/-- Two operations of one event in order; the second sees the state the first leaves. -/
def andThen (o : Result) (f : State → Result) : Result :=
  match o with
  | .next s => f s
  | .fault r => .fault r
  | .refused r => .refused r

/-! ### Buffer cells -/

/-- The value of a cell, `none` if nothing has written it since power-on (20_memory.md R49). -/
def Memory.get : Memory → Nat → Option Byte
  | [], _ => none
  | (a, v) :: m, i => if i = a then some v else Memory.get m i

/-- Writes one cell, keeping the indexes strictly rising. -/
def Memory.set : Memory → Nat → Byte → Memory
  | [], i, v => [(i, v)]
  | (a, x) :: m, i, v =>
    if i < a then (i, v) :: (a, x) :: m
    else if i = a then (i, v) :: m
    else (a, x) :: Memory.set m i v

/-- The canonical form of a buffer: indexes strictly rising. -/
def Memory.wf : Memory → Bool
  | [] => true
  | [_] => true
  | (a, _) :: (b, y) :: m => decide (a < b) && Memory.wf ((b, y) :: m)

/-- The cells of one of the two buffers (20_memory.md R40). -/
def State.cells (s : State) : Buffer → Memory
  | .buf => s.buf
  | .txbuf => s.txbuf

/-- The value of cell `i` of a buffer, `none` if never written (20_memory.md R49). -/
def State.cell (s : State) (b : Buffer) (i : Nat) : Option Byte := Memory.get (s.cells b) i

/-- Replaces the cells of one buffer. -/
def State.setCells (s : State) (b : Buffer) (m : Memory) : State :=
  match b with
  | .buf => { s with buf := m }
  | .txbuf => { s with txbuf := m }

/-- `MemRead(b, i, 1)` (00_scope.md R6). A never-written cell reads as the free value of the current
draw (93_implementation_defined.md U2; log 3). -/
def memRead (b : Buffer) (i : Nat) (s : State) : Byte :=
  (s.cell b i).getD (Config.freeByte s.draws b i)

/-- `MemWrite(b, i, 1, v)` (00_scope.md R6), for `i` from 0 to `BUF_CAP`-1 (20_memory.md R40; log 5). -/
def memWrite (b : Buffer) (i : Nat) (v : Byte) (s : State) : Result :=
  if i < s.cfg.bufCap then .next (s.setCells b (Memory.set (s.cells b) i v))
  else .fault (.noSuchCell b i)

/-- `b[0..n-1]`, the first `n` bytes of a buffer (00_scope.md R5). -/
def memReadFirst (b : Buffer) (n : Nat) (s : State) : List Byte :=
  (List.range n).map (fun i => memRead b i s)

/-! ### The bytes the frames are made of -/

/-- The start marker of an inbound frame (30_encoding.md R61, R62). -/
def startMarker : Byte := 0x28

/-- The terminator of a frame (30_encoding.md R60 to R62). -/
def terminator : Byte := 0x0D

/-- The high byte of a 16-bit value (00_scope.md R5, 40_crc.md R85). -/
def highByte (v : Word) : Byte := v.extractLsb' 8 8

/-- The low byte of a 16-bit value (00_scope.md R5, 40_crc.md R85). -/
def lowByte (v : Word) : Byte := v.extractLsb' 0 8

/-! ### Entry into an error and the ways out -/

/-- `raise <Kind>` of a receive: `ST <- FAIL; ERR <- code(<Kind>)`, nothing saved elsewhere and nothing
vectored (60_exceptions.md R153). -/
def raiseRx (e : RxError) (s : State) : State := { s with st := .fail, err := some e }

/-- `InvalidCommand`, latched in `TXERR` (60_exceptions.md R151). -/
def raiseInvalidCommand (s : State) : State := { s with txerr := true }

/-- A sequence error, the refusal of a legal event by the state of the block: `SEQ <- 1` and nothing
else (60_exceptions.md R158). -/
def refuseEvent (s : State) : State := { s with seq := true }

/-- An illegal word: `ILL <- 1` and nothing else (30_encoding.md R67, 60_exceptions.md R157). -/
def illegalWord (s : State) : State := { s with ill := true }

/-- The termination strategy an RX_START operand selects (42_rx_framer.md R113). -/
def strategyOf (m : BitVec 1) : Strategy := if m = 1 then .fixed else .scan

/-- The way out of a terminal state that opens a new receive: `ERR` is cleared and the previous result
discarded, buffer cells are kept (42_rx_framer.md R113, 60_exceptions.md R161). -/
def openReceive (m : BitVec 1) (s : State) : State :=
  { s with
    st := .recv, err := none, mode := strategyOf m,
    wptr := 0, flen := 0, paylen := 0, tmr := 0 }

/-- The way out of everything, RST or the `rst_n` pin: every register takes its reset value of 10_state.md R37,
the buffer cells are kept (44_host_access.md R141, 70_reset_and_hazards.md R170). -/
def resetRegisters (s : State) : State :=
  { s with
    st := .idle, err := none, mode := .scan, txrdy := false, txerr := false, ill := false, seq := false,
    acc := 0, crcout := 0, wptr := 0, flen := 0, paylen := 0, tmr := 0, tlimit := 0, explen := 0,
    txlen := 0, rdata := 0 }

/-! ### The free draw -/

/-- The number of the next free draw after an event. NOP changes nothing (44_host_access.md R140) and RD has no side
effect (20_memory.md R44), so they keep the draw and two RDs with no event between read the same; every
other event moves on to a fresh draw (93_implementation_defined.md U2; log 4). -/
def drawsAfter (i : Instr) (n : Nat) : Nat :=
  match i with
  | .nop => n
  | .rd _ => n
  | .rst => n + 1
  | .crcClr => n + 1
  | .crcByte _ => n + 1
  | .crcFin => n + 1
  | .txClr => n + 1
  | .txPut _ => n + 1
  | .txEnd => n + 1
  | .setTlimit _ => n + 1
  | .setExplen _ => n + 1
  | .rxStart _ => n + 1
  | .rxByte _ => n + 1
  | .tick => n + 1

end Sys2Proof.Machine
end

