-- ==== Sys2Proof/Machine/Flags.lean ====
section
/-!
DEFINITION. The status register: the codes of its fields and its word (10_state.md R23 to R30), and the error
numbering (60_exceptions.md R150). The block has no arithmetic condition codes (10_state.md R31).
-/

namespace Sys2Proof.Machine

/-- The value of `ST` (10_state.md R24). -/
def stCode : RxState → BitVec 2
  | .idle => 0
  | .recv => 1
  | .done => 2
  | .fail => 3

/-- The number of an error kind (60_exceptions.md R150). -/
def errorCode : ErrorKind → BitVec 3
  | .invalidCommand => 1
  | .deviceUnavailable => 2
  | .readTimeout => 3
  | .malformedFrame => 4
  | .checksumFailure => 5

/-- The error kind of a receive in the numbering of all five (60_exceptions.md R150). -/
def rxErrorKind : RxError → ErrorKind
  | .readTimeout => .readTimeout
  | .malformedFrame => .malformedFrame
  | .checksumFailure => .checksumFailure

/-- The value of `ERR` (10_state.md R25). -/
def errCode : Option RxError → BitVec 3
  | none => 0
  | some e => errorCode (rxErrorKind e)

/-- The value of `MODE` (10_state.md R26). -/
def modeCode : Strategy → BitVec 1
  | .scan => 0
  | .fixed => 1

/-- `STATUS` (10_state.md R23): `ST` in bits 1:0, `ERR` in 4:2, `MODE` 5, `TXRDY` 6, `TXERR` 7, `ILL` 8, `SEQ` 9,
bits 15:10 hardwired 0. -/
def statusWord (s : State) : Word :=
  0#6 ++ BitVec.ofBool s.seq ++ BitVec.ofBool s.ill ++ BitVec.ofBool s.txerr ++ BitVec.ofBool s.txrdy
    ++ modeCode s.mode ++ errCode s.err ++ stCode s.st

end Sys2Proof.Machine
end

