-- ==== Sys2Proof/Machine/Operands.lean ====
section
/-!
DEFINITION. The three ways an event forms a buffer index (20_memory.md R51) and the register and address map of
RD (20_memory.md R41). The operand forms of the event word itself are fields of Decode.lean (30_encoding.md R64).
-/

namespace Sys2Proof.Machine

/-! ### Implicit pointer with post-increment -/

/-- Stores at `BUF[WPTR]` and then adds one to `WPTR` (20_memory.md R51 (1), 42_rx_framer.md R114). -/
def storeRx (b : Byte) (s : State) : Result :=
  andThen (memWrite .buf s.wptr.toNat b s) fun t => .next { t with wptr := s.wptr + 1 }

/-- Stores at `TXBUF[TXLEN]` and then adds one to `TXLEN` (20_memory.md R51 (1), 41_tx_encoder.md R102). -/
def storeTx (b : Byte) (s : State) : Result :=
  andThen (memWrite .txbuf s.txlen.toNat b s) fun t => .next { t with txlen := s.txlen + 1 }

/-- Stores at `TXBUF[TXLEN]`, `TXBUF[TXLEN+1]`, `TXBUF[TXLEN+2]` and then adds three to `TXLEN`
(20_memory.md R51 (1), 41_tx_encoder.md R103). -/
def storeTxTrailer (b0 b1 b2 : Byte) (s : State) : Result :=
  andThen (memWrite .txbuf s.txlen.toNat b0 s) fun t =>
  andThen (memWrite .txbuf (s.txlen.toNat + 1) b1 t) fun u =>
  andThen (memWrite .txbuf (s.txlen.toNat + 2) b2 u) fun v =>
  .next { v with txlen := s.txlen + 3 }

/-! ### Indexes from the frame length -/

/-- The index of the high CRC byte of a frame of length `len` (30_encoding.md R61, 20_memory.md R51 (2)). -/
def crcHighIndex (len : Nat) : Nat := len - 3

/-- The index of the low CRC byte of a frame of length `len` (30_encoding.md R61, 20_memory.md R51 (2)). -/
def crcLowIndex (len : Nat) : Nat := len - 2

/-- `BUF[0..len-4]`, the covered bytes: start marker and payload (43_validator.md R133). -/
def coveredBytes (len : Nat) (s : State) : List Byte := memReadFirst .buf (len - 3) s

/-! ### The absolute address of RD -/

/-- The register of a number (10_state.md R11, R23). -/
def regOfNumber : Nat → Option Reg
  | 0x0 => some .status
  | 0x1 => some .acc
  | 0x2 => some .crcout
  | 0x3 => some .wptr
  | 0x4 => some .flen
  | 0x5 => some .paylen
  | 0x6 => some .tmr
  | 0x7 => some .tlimit
  | 0x8 => some .explen
  | 0x9 => some .txlen
  | _ => none

/-- The value of a register (20_memory.md R41). -/
def readReg (r : Reg) (s : State) : Word :=
  match r with
  | .status => statusWord s
  | .acc => s.acc
  | .crcout => s.crcout
  | .wptr => s.wptr
  | .flen => s.flen
  | .paylen => s.paylen
  | .tmr => s.tmr
  | .tlimit => s.tlimit
  | .explen => s.explen
  | .txlen => s.txlen

/-- `zext_16(MemRead(b, i, 1))` for an index inside the buffer, 0x0000 beyond it (20_memory.md R41). -/
def readWindow (b : Buffer) (i : Nat) (s : State) : Word :=
  if i < s.cfg.bufCap then (memRead b i s).setWidth 16 else 0

/-- `read(a)`, the address map of RD (20_memory.md R41): registers from 0x0000, `BUF` from 0x1000, `TXBUF` from
0x2000, every other address 0x0000. -/
def readAddress (a : Word) (s : State) : Word :=
  let n := a.toNat
  if n < 0x1000 then
    match regOfNumber n with
    | some r => readReg r s
    | none => 0
  else if n < 0x2000 then readWindow .buf (n - 0x1000) s
  else if n < 0x3000 then readWindow .txbuf (n - 0x2000) s
  else 0

end Sys2Proof.Machine
end

