-- ==== Sys2Proof/Machine/HostAccess.lean ====
section
/-!
DEFINITION. The system and host-access events NOP, RST, RD (44_host_access.md).
-/

namespace Sys2Proof.Machine

/-- NOP (44_host_access.md R140). -/
def execNop (s : State) : Result := .next s

/-- RST (44_host_access.md R141). -/
def execRst (s : State) : Result := .next (resetRegisters s)

/-- RD a (44_host_access.md R142). -/
def execRd (a : Word) (s : State) : Result := .next { s with rdata := readAddress a s }

end Sys2Proof.Machine
end

