-- ==== Sys2Proof/Machine/CrcGen.lean ====
section
/-!
DEFINITION. The unit CRCGEN (40_crc.md): the table, the nibble and byte steps, the CRC with and without the escape, and
the events CRC_CLR, CRC_BYTE, CRC_FIN.
-/

namespace Sys2Proof.Machine

/-- `TBL`, the constant 16-entry table (40_crc.md R80; log 7). -/
def crcTable : Vector Word 16 :=
  #v[0x0000, 0x1021, 0x2042, 0x3063, 0x4084, 0x50A5, 0x60C6, 0x70E7,
     0x8108, 0x9129, 0xA14A, 0xB16B, 0xC18C, 0xD1AD, 0xE1CE, 0xF1EF]

/-- `TBL[i]`; a 4-bit index is always in range (40_crc.md R88). -/
def crcEntry (i : Nibble) : Word := crcTable[i.toNat]'i.isLt

/-- The nibble step (40_crc.md R82): the high nibble is taken before the shift (90_conflicts.md C3). -/
def nibbleStep (acc : Word) (n : Nibble) : Word :=
  let t : Nibble := acc.extractLsb' 12 4
  (acc <<< 4) ^^^ crcEntry (t ^^^ n)

/-- The byte step, high nibble first (40_crc.md R83). -/
def byteStep (acc : Word) (b : Byte) : Word :=
  nibbleStep (nibbleStep acc (b.extractLsb' 4 4)) (b.extractLsb' 0 4)

/-- `crc16_raw`: the byte step folded over the bytes, from 0x0000 (40_crc.md R84). -/
def crc16Raw (bytes : List Byte) : Word := bytes.foldl byteStep 0x0000

/-- The escape of one CRC byte (40_crc.md R86). -/
def esc (x : Byte) : Byte := if x = 0x28 ∨ x = 0x0D ∨ x = 0x0A then x + 1 else x

/-- Both bytes of a raw CRC escaped, each on its own, high byte first (40_crc.md R85 to R87). -/
def escapePair (r : Word) : Word := esc (highByte r) ++ esc (lowByte r)

/-- `crc16`, the escaped CRC (40_crc.md R87). -/
def crc16 (bytes : List Byte) : Word := escapePair (crc16Raw bytes)

/-- CRC_CLR (40_crc.md R90). -/
def execCrcClr (s : State) : Result := .next { s with acc := 0x0000 }

/-- CRC_BYTE b (40_crc.md R91). -/
def execCrcByte (b : Byte) (s : State) : Result := .next { s with acc := byteStep s.acc b }

/-- CRC_FIN (40_crc.md R92). -/
def execCrcFin (s : State) : Result := .next { s with crcout := escapePair s.acc }

end Sys2Proof.Machine
end

