-- ==== Sys2Proof/Machine/Validator.lean ====
section
/-!
DEFINITION. The unit CRCVAL (43_validator.md): the procedure `finish` that runs inside the RX_BYTE that ends a frame,
and the inbound frame format.
-/

namespace Sys2Proof.Machine

/-- The inbound frame of a payload: start marker, payload, CRC pair over both, terminator
(30_encoding.md R61). -/
def inboundFrame (payload : List Byte) : List Byte :=
  startMarker :: payload ++
    [highByte (crc16 (startMarker :: payload)), lowByte (crc16 (startMarker :: payload)), terminator]

/-- Whether the CRC pair received in `BUF` is the CRC recomputed over the covered bytes of a frame of
length `len` (43_validator.md R133); the received bytes are never un-escaped (R136). -/
def crcMatches (len : Nat) (s : State) : Bool :=
  let k := crc16 (coveredBytes len s)
  decide (memRead .buf (crcHighIndex len) s = highByte k) && decide (memRead .buf (crcLowIndex len) s = lowByte k)

/-- The result of a frame that passes both checks (43_validator.md R134): a null at the first CRC byte's
place, the payload length, `DONE`. -/
def acceptFrame (len : Word) (s : State) : Result :=
  andThen (memWrite .buf (crcHighIndex len.toNat) 0x00 s) fun t =>
    .next { t with paylen := len - 4, st := .done, err := none }

/-- `finish(L)` (43_validator.md R130): `FLEN`, then the start marker, the length and the CRC in this order. -/
def finish (len : Word) (s : State) : Result :=
  let t := { s with flen := len }
  if memRead .buf 0 t ≠ startMarker then .next (raiseRx .malformedFrame t)
  else if len.toNat < 4 then .next (raiseRx .checksumFailure t)
  else if crcMatches len.toNat t then acceptFrame len t
  else .next (raiseRx .checksumFailure t)

end Sys2Proof.Machine
end

