-- ==== Sys2Proof/Machine/RxFramer.lean ====
section
/-!
DEFINITION. The units RXSYNC and RXPARSE (42_rx_framer.md): the events SET_TLIMIT, SET_EXPLEN, RX_START, RX_BYTE, TICK.
-/

namespace Sys2Proof.Machine

/-- SET_TLIMIT v (42_rx_framer.md R111). -/
def execSetTlimit (v : Word) (s : State) : Result :=
  if s.st = .recv then .next (refuseEvent s) else .next { s with tlimit := v }

/-- SET_EXPLEN v (42_rx_framer.md R112). -/
def execSetExplen (v : Word) (s : State) : Result :=
  if s.st = .recv then .next (refuseEvent s) else .next { s with explen := v }

/-- Whether `EXPLEN` lets a fixed-mode receive start (42_rx_framer.md R113, 10_state.md R20). -/
def explenUsable (s : State) : Bool := decide (4 ≤ s.explen.toNat) && decide (s.explen.toNat ≤ s.cfg.bufCap)

/-- RX_START m (42_rx_framer.md R113). -/
def execRxStart (m : BitVec 1) (s : State) : Result :=
  if s.st = .recv then .next (refuseEvent s)
  else if m = 1 ∧ explenUsable s = false then .next (refuseEvent s)
  else .next (openReceive m s)

/-- Whether the byte just stored ends the frame, `WPTR` counting it already: scan mode by the byte
(42_rx_framer.md R115), fixed mode by the count (R116). -/
def endsFrame (b : Byte) (s : State) : Bool :=
  match s.mode with
  | .scan => decide (b = terminator)
  | .fixed => decide (s.wptr = s.explen)

/-- RX_BYTE b (42_rx_framer.md R114): dropped outside a receive (R118) and by a full buffer (R117). -/
def execRxByte (b : Byte) (s : State) : Result :=
  if s.st ≠ .recv then .next s
  else if s.wptr.toNat = s.cfg.bufCap then .next s
  else andThen (storeRx b s) fun t => if endsFrame b t then finish t.wptr t else .next t

/-- `min(TMR + 1, 0xFFFF)`, the saturating count of TICK (42_rx_framer.md R119). -/
def nextTmr (s : State) : Word := BitVec.ofNat 16 (min (s.tmr.toNat + 1) 0xFFFF)

/-- TICK (42_rx_framer.md R119). -/
def execTick (s : State) : Result :=
  if s.st ≠ .recv then .next s
  else
    let t := { s with tmr := nextTmr s }
    if t.tlimit.toNat ≤ t.tmr.toNat then .next (raiseRx .readTimeout t) else .next t

end Sys2Proof.Machine
end

