-- ==== Sys2Proof/Machine/TxEnc.lean ====
section
/-!
DEFINITION. The unit TXENC (41_tx_encoder.md): the function `encode`, and the events TX_CLR, TX_PUT, TX_END.
-/

namespace Sys2Proof.Machine

/-- The outbound frame of a command: the command, its CRC pair high byte first, the terminator
(30_encoding.md R60). -/
def outboundFrame (c : List Byte) : List Byte :=
  c ++ [highByte (crc16 c), lowByte (crc16 c), terminator]

/-- `encode(c)`: `none` is the error `InvalidCommand` (41_tx_encoder.md R100). -/
def encodeCommand (cap : Nat) (c : List Byte) : Option (List Byte) :=
  if c.length + 3 > cap then none else some (outboundFrame c)

/-- TX_CLR (41_tx_encoder.md R101). -/
def execTxClr (s : State) : Result := .next { s with txlen := 0, txrdy := false, txerr := false }

/-- TX_PUT b (41_tx_encoder.md R102); the tests in the order of 60_exceptions.md R159. -/
def execTxPut (b : Byte) (s : State) : Result :=
  if s.txrdy then .next (refuseEvent s)
  else if s.txerr then .next s
  else if s.txlen.toNat + 4 > s.cfg.bufCap then .next (raiseInvalidCommand s)
  else storeTx b s

/-- TX_END (41_tx_encoder.md R103); `ACC` is not used. -/
def execTxEnd (s : State) : Result :=
  if s.txrdy then .next (refuseEvent s)
  else if s.txerr then .next s
  else
    let k := crc16 (memReadFirst .txbuf s.txlen.toNat s)
    andThen (storeTxTrailer (highByte k) (lowByte k) terminator s) fun t => .next { t with txrdy := true }

end Sys2Proof.Machine
end

