-- ==== Sys2Proof/Machine/Dispatch.lean ====
section
/-!
DEFINITION. One arm per event, each a direct call of its meaning (30_encoding.md R66).
-/

namespace Sys2Proof.Machine

def exec (i : Instr) (s : State) : Host.Outcome State Fault Refusal :=
  match i with
  | .nop => Sys2Proof.Machine.execNop s
  | .rst => Sys2Proof.Machine.execRst s
  | .crcClr => Sys2Proof.Machine.execCrcClr s
  | .crcByte b => Sys2Proof.Machine.execCrcByte b s
  | .crcFin => Sys2Proof.Machine.execCrcFin s
  | .txClr => Sys2Proof.Machine.execTxClr s
  | .txPut b => Sys2Proof.Machine.execTxPut b s
  | .txEnd => Sys2Proof.Machine.execTxEnd s
  | .setTlimit v => Sys2Proof.Machine.execSetTlimit v s
  | .setExplen v => Sys2Proof.Machine.execSetExplen v s
  | .rxStart m => Sys2Proof.Machine.execRxStart m s
  | .rxByte b => Sys2Proof.Machine.execRxByte b s
  | .tick => Sys2Proof.Machine.execTick s
  | .rd a => Sys2Proof.Machine.execRd a s

end Sys2Proof.Machine
end

