-- ==== Sys2Proof/WellFormed.lean ====
section
/-!
DEFINITION. Checks on the terms of the syntax and on the parameters.
An operand of `Instr` has exactly the width of its field, and no operand value of a legal event is reserved
(30_encoding.md R68), so no event is ill-formed; what can be ill-formed is a parameter (00_scope.md R4) and the
ASCII string of a pseudo-instruction (30_encoding.md R70).
-/

namespace Sys2Proof

/-- Every event is well-formed: its operand's type is its field (30_encoding.md R64, R68). -/
def Instr.wellFormed : Instr → Bool
  | .nop => true
  | .rst => true
  | .crcClr => true
  | .crcByte _ => true
  | .crcFin => true
  | .txClr => true
  | .txPut _ => true
  | .txEnd => true
  | .setTlimit _ => true
  | .setExplen _ => true
  | .rxStart _ => true
  | .rxByte _ => true
  | .tick => true
  | .rd _ => true

/-- `4 <= BUF_CAP <= 4096` (00_scope.md R4). -/
abbrev Config.wellFormed (c : Config) : Prop := 4 ≤ c.bufCap ∧ c.bufCap ≤ 4096

/-- A character of an ASCII string (30_encoding.md R69, R70). -/
def asciiOnly (s : List Byte) : Bool := s.all (fun c => decide (c.toNat < 128))

end Sys2Proof
end

