-- ==== Sys2Proof/Decode.lean ====
section
/-!
DEFINITION. Decoding an event word, total on all 2^20 words and rejecting by name (30_encoding.md R63 to R67),
the encoder from the same table, and the table itself as match and mask (R66).
-/

namespace Sys2Proof

/-- Why a word is illegal (30_encoding.md R67). -/
inductive Illegal where
  /-- `op` is 0xD or 0xF, an opcode kept for a later version. -/
  | reservedOpcode (op : BitVec 4)
  /-- A must-be-zero bit of the operand form is set. -/
  | mustBeZero (op : BitVec 4) (arg : Word)
  deriving DecidableEq, Repr

/-- The four operand forms (30_encoding.md R64). -/
inductive Form where
  | none
  | byte
  | bit
  | half
  deriving DecidableEq, Repr

/-- The must-be-zero bits of a form (R64). -/
def mustBeZeroBits : Form → Word
  | .none => 0xFFFF
  | .byte => 0xFF00
  | .bit => 0xFFFE
  | .half => 0x0000

/-- `op = w[19:16]` (R63). -/
def opField (w : EventWord) : BitVec 4 := w.extractLsb' 16 4

/-- `arg = w[15:0]` (R63). -/
def argField (w : EventWord) : Word := w.extractLsb' 0 16

/-- `b = arg[7:0]` (R64, form byte). -/
def byteOperand (arg : Word) : Byte := arg.extractLsb' 0 8

/-- `m = arg[0]` (R64, form bit). -/
def bitOperand (arg : Word) : BitVec 1 := arg.extractLsb' 0 1

/-- The event, if the must-be-zero bits of its form are all zero (R65). -/
def decodeForm (f : Form) (op : BitVec 4) (arg : Word) (i : Instr) : Except Illegal Instr :=
  if arg &&& mustBeZeroBits f = 0 then .ok i else .error (.mustBeZero op arg)

/-- `decode` (30_encoding.md R65): the opcode is looked up, then the must-be-zero bits are tested. -/
def decode (w : EventWord) : Except Illegal Instr :=
  let op := opField w
  let arg := argField w
  match op with
  | 0x0#4 => decodeForm .none op arg .nop
  | 0x1#4 => decodeForm .none op arg .rst
  | 0x2#4 => decodeForm .none op arg .crcClr
  | 0x3#4 => decodeForm .byte op arg (.crcByte (byteOperand arg))
  | 0x4#4 => decodeForm .none op arg .crcFin
  | 0x5#4 => decodeForm .none op arg .txClr
  | 0x6#4 => decodeForm .byte op arg (.txPut (byteOperand arg))
  | 0x7#4 => decodeForm .none op arg .txEnd
  | 0x8#4 => decodeForm .half op arg (.setTlimit arg)
  | 0x9#4 => decodeForm .half op arg (.setExplen arg)
  | 0xA#4 => decodeForm .bit op arg (.rxStart (bitOperand arg))
  | 0xB#4 => decodeForm .byte op arg (.rxByte (byteOperand arg))
  | 0xC#4 => decodeForm .none op arg .tick
  | 0xE#4 => decodeForm .half op arg (.rd arg)
  | _ => .error (.reservedOpcode op)

/-- A word from its two fields (R63). -/
def eventWord (op : BitVec 4) (arg : Word) : EventWord := op ++ arg

/-- An operand of form byte with its must-be-zero bits (R64). -/
def byteArg (b : Byte) : Word := b.setWidth 16

/-- An operand of form bit with its must-be-zero bits (R64). -/
def bitArg (m : BitVec 1) : Word := m.setWidth 16

/-- The one word of an event (30_encoding.md R66). -/
def encode : Instr → EventWord
  | .nop => eventWord 0x0 0
  | .rst => eventWord 0x1 0
  | .crcClr => eventWord 0x2 0
  | .crcByte b => eventWord 0x3 (byteArg b)
  | .crcFin => eventWord 0x4 0
  | .txClr => eventWord 0x5 0
  | .txPut b => eventWord 0x6 (byteArg b)
  | .txEnd => eventWord 0x7 0
  | .setTlimit v => eventWord 0x8 v
  | .setExplen v => eventWord 0x9 v
  | .rxStart m => eventWord 0xA (bitArg m)
  | .rxByte b => eventWord 0xB (byteArg b)
  | .tick => eventWord 0xC 0
  | .rd a => eventWord 0xE a

/-- A row of the opcode map: a word `w` is the row's event iff `w &&& mask = pattern` (30_encoding.md R66). -/
structure Row where
  mnemonic : String
  pattern : EventWord
  mask : EventWord
  deriving DecidableEq, Repr

/-- The row of an event (30_encoding.md R66, spec/opcode_table.json). -/
def rowOf : Instr → Row
  | .nop => ⟨"NOP", 0x00000, 0xFFFFF⟩
  | .rst => ⟨"RST", 0x10000, 0xFFFFF⟩
  | .crcClr => ⟨"CRC_CLR", 0x20000, 0xFFFFF⟩
  | .crcByte _ => ⟨"CRC_BYTE", 0x30000, 0xFFF00⟩
  | .crcFin => ⟨"CRC_FIN", 0x40000, 0xFFFFF⟩
  | .txClr => ⟨"TX_CLR", 0x50000, 0xFFFFF⟩
  | .txPut _ => ⟨"TX_PUT", 0x60000, 0xFFF00⟩
  | .txEnd => ⟨"TX_END", 0x70000, 0xFFFFF⟩
  | .setTlimit _ => ⟨"SET_TLIMIT", 0x80000, 0xF0000⟩
  | .setExplen _ => ⟨"SET_EXPLEN", 0x90000, 0xF0000⟩
  | .rxStart _ => ⟨"RX_START", 0xA0000, 0xFFFFE⟩
  | .rxByte _ => ⟨"RX_BYTE", 0xB0000, 0xFFF00⟩
  | .tick => ⟨"TICK", 0xC0000, 0xFFFFF⟩
  | .rd _ => ⟨"RD", 0xE0000, 0xF0000⟩

/-- The 14 rows, in the order of the map (30_encoding.md R66). -/
def opcodeMap : List Row :=
  [.nop, .rst, .crcClr, .crcByte 0, .crcFin, .txClr, .txPut 0, .txEnd, .setTlimit 0, .setExplen 0,
    .rxStart 0, .rxByte 0, .tick, .rd 0].map rowOf

/-- Whether a word is an event of the row (30_encoding.md R66). -/
def Row.matchesWord (r : Row) (w : EventWord) : Bool := decide (w &&& r.mask = r.pattern)

/-- The event the decoder reads from the bits `w`, numbered as spec/opcode_table.json numbers them.
An event word has 20 bits and the table counts in whole bytes: a set bit above bit 19 is no bit of a word
(log 8). -/
def decodeTableWord (nbits w : Nat) : Option Instr :=
  if w % 2 ^ nbits < 2 ^ 20 then (decode (BitVec.ofNat 20 (w % 2 ^ nbits))).toOption else none

end Sys2Proof
end

