-- ==== Sys2Proof/Machine/Ports.lean ====
section
/-!
DEFINITION. The ports of the block (30_encoding.md R71): which event the input presents next, and the two outputs.
-/

namespace Sys2Proof.Machine

/-- What one step consumes. -/
inductive Event where
  /-- A word of the host port. -/
  | host (w : EventWord)
  /-- RX_BYTE of the line port. -/
  | line (b : Byte)
  /-- TICK of the timebase. -/
  | timebase
  /-- `rst_n` held low. -/
  | pin
  /-- A clock cycle in which no port presents an event. -/
  | quiet
  deriving DecidableEq, Repr

/-- Puts back what is left of a clock cycle; a cycle with nothing left is over. -/
def putBack (c : PortCycle) (rest : List Input) : List Input :=
  if c = ⟨none, none, false⟩ then rest else .cycle c :: rest

/-- The next event of an input and what is left of it. Events of one cycle come in the order host, line, timebase
(30_encoding.md R71, 20_memory.md R47). -/
def nextEvent : List Input → Option (Event × List Input)
  | [] => none
  | .resetPin :: rest => some (.pin, rest)
  | .cycle ⟨some w, rx, tick⟩ :: rest => some (.host w, putBack ⟨none, rx, tick⟩ rest)
  | .cycle ⟨none, some b, tick⟩ :: rest => some (.line b, putBack ⟨none, none, tick⟩ rest)
  | .cycle ⟨none, none, true⟩ :: rest => some (.timebase, rest)
  | .cycle ⟨none, none, false⟩ :: rest => some (.quiet, rest)

/-- The input moved past an event, and the number of the next free draw. -/
def advance (rest : List Input) (draws : Nat) (s : State) : State := { s with inputs := rest, draws := draws }

/-- The state an instruction sees when it is consumed (log 1, log 4). -/
def consume (i : Instr) (rest : List Input) (s : State) : State := advance rest (drawsAfter i s.draws) s

/-- A word presented on the host port in a clock cycle of its own, before everything else of the input
(log 1). -/
def presentWord (w : EventWord) (s : State) : State :=
  { s with inputs := .cycle ⟨some w, none, false⟩ :: s.inputs }

/-- The output `rdata[15:0]` (30_encoding.md R71). -/
def rdataPort (s : State) : Word := s.rdata

/-- The output `st[1:0]`, a level showing `ST` (30_encoding.md R71, 60_exceptions.md R160). -/
def stPort (s : State) : BitVec 2 := stCode s.st

end Sys2Proof.Machine
end

