-- ==== Sys2Proof/Machine/RunEvent.lean ====
section
/-!
DEFINITION. The effect of one event of the input, and of a finite sequence of instructions.
-/

namespace Sys2Proof.Machine

/-- The effect of one event: an instruction is executed; a word that decodes to none sets `ILL`
(30_encoding.md R67); the pin resets (70_reset_and_hazards.md R170); a cycle without an event changes
nothing but the input (00_scope.md R7). -/
def runEvent (e : Event) (rest : List Input) (s : State) : Result :=
  match e with
  | .host w =>
    match decode w with
    | .ok i => exec i (consume i rest s)
    | .error _ => .next (illegalWord (advance rest (s.draws + 1) s))
  | .line b => exec (.rxByte b) (consume (.rxByte b) rest s)
  | .timebase => exec .tick (consume .tick rest s)
  | .pin => .next (resetRegisters (advance rest (s.draws + 1) s))
  | .quiet => .next (advance rest s.draws s)

/-- A run: a finite event sequence from a start state (70_reset_and_hazards.md R187). -/
def execAll : List Instr → State → Result
  | [], s => .next s
  | i :: is, s => andThen (exec i s) (execAll is)

end Sys2Proof.Machine
end

