-- ==== Sys2Proof/Machine/Step.lean ====
section
/-!
DEFINITION. One step of the block: it consumes one event of the input (00_scope.md R7). With no event the state does
not change.
-/

namespace Sys2Proof.Machine

/-- One step (00_scope.md R7). -/
def step (s : State) : Host.Outcome State Fault Refusal :=
  match nextEvent s.inputs with
  | none => .next s
  | some (e, rest) => runEvent e rest s

/-- `s` with the event word `w` presented on the host port before everything else of the input
(log 1, log 8). -/
def State.withFetchWord (s : State) (nbits w : Nat) : State :=
  presentWord (BitVec.ofNat 20 (w % 2 ^ nbits)) s

end Sys2Proof.Machine
end

