-- ==== Sys2Proof/Machine/Pseudo.lean ====
section
/-!
DEFINITION. The six pseudo-instructions and their expansions (30_encoding.md R70).
-/

namespace Sys2Proof.Machine

/-- A pseudo-instruction (30_encoding.md R70); a string is the list of its ASCII codes. -/
inductive Pseudo where
  /-- `CRC16 s` -/
  | crc16 (s : List Byte)
  /-- `SEND s` -/
  | send (s : List Byte)
  /-- `FEED b1 b2 ...` -/
  | feed (bytes : List Byte)
  /-- `WAIT n` -/
  | wait (n : Nat)
  /-- `RECV_SCAN t` -/
  | recvScan (t : Word)
  /-- `RECV_FIXED t, n` -/
  | recvFixed (t n : Word)
  deriving DecidableEq, Repr

/-- The events a pseudo-instruction stands for (30_encoding.md R70). -/
def expandPseudo : Pseudo → List Instr
  | .crc16 s => .crcClr :: s.map .crcByte ++ [.crcFin]
  | .send s => .txClr :: s.map .txPut ++ [.txEnd]
  | .feed bytes => bytes.map .rxByte
  | .wait n => List.replicate n .tick
  | .recvScan t => [.setTlimit t, .rxStart 0]
  | .recvFixed t n => [.setTlimit t, .setExplen n, .rxStart 1]

end Sys2Proof.Machine
end

