-- ==== Sys2Proof/Machine/Assembler.lean ====
section
/-!
DEFINITION. The text of an event (30_encoding.md R69): a line is a mnemonic and its operands; an operand is a
hexadecimal number with 0x, a decimal number or one ASCII character in single quotes; a comment starts with a
semicolon; a program is a list of lines. Pseudo-instructions expand (R70). What R69 and R70 do not say (white space,
spaces beside quotes and commas, letter case, operand range, lines without an event) is the model's choice, log 10.
-/

namespace Sys2Proof.Machine

/-- A token of a line. -/
inductive Token where
  /-- A bare run of characters: a mnemonic or a number. -/
  | bare (cs : List Char)
  /-- A character in single quotes. -/
  | char (c : Char)
  /-- A string in double quotes. -/
  | str (cs : List Char)
  /-- A comma. -/
  | comma
  deriving DecidableEq, Repr

/-- Where in a line the lexer stands. -/
inductive LexMode where
  /-- In a bare run, its characters so far in reverse. -/
  | bare (cur : List Char)
  /-- In a string, its characters so far in reverse. -/
  | str (cur : List Char)
  /-- After an opening single quote. -/
  | quoteOpen
  /-- After the character of a single quote. -/
  | quoteClose (c : Char)
  deriving DecidableEq, Repr

/-- The double quote. -/
def doubleQuote : Char := Char.ofNat 34

/-- The single quote. -/
def singleQuote : Char := Char.ofNat 39

/-- Ends a bare run. -/
def endBare (cur : List Char) (rest : List Token) : List Token :=
  if cur.isEmpty then rest else .bare cur.reverse :: rest

/-- The tokens of a line up to its end or its comment (30_encoding.md R69). DESIGN CHOICE (log 10), where R69 is
silent: a space ends a bare run and is otherwise skipped; a quote, a comma and a semicolon end a bare run by
themselves, so no space need stand between a mnemonic and a quoted operand, between quoted operands, beside a comma
or before a comment; a semicolon inside quotes starts no comment; an unclosed quote or string, or a quote around
other than one character, gives no tokens. -/
def lexLine : List Char → LexMode → Option (List Token)
  | [], .bare cur => some (endBare cur [])
  | [], .str _ => none
  | [], .quoteOpen => none
  | [], .quoteClose _ => none
  | c :: rest, .str cur =>
    if c = doubleQuote then (lexLine rest (.bare [])).map (.str cur.reverse :: ·) else lexLine rest (.str (c :: cur))
  | c :: rest, .quoteOpen => lexLine rest (.quoteClose c)
  | c :: rest, .quoteClose d => if c = singleQuote then (lexLine rest (.bare [])).map (.char d :: ·) else none
  | c :: rest, .bare cur =>
    if c = ';' then some (endBare cur [])
    else if c = ' ' then (lexLine rest (.bare [])).map (endBare cur)
    else if c = ',' then (lexLine rest (.bare [])).map (fun ts => endBare cur (.comma :: ts))
    else if c = doubleQuote then (lexLine rest (.str [])).map (endBare cur)
    else if c = singleQuote then (lexLine rest .quoteOpen).map (endBare cur)
    else lexLine rest (.bare (c :: cur))

/-- The value of a digit in a base of at most 16. -/
def digitValue (base : Nat) (c : Char) : Option Nat :=
  let n := c.toNat
  let v := if 48 ≤ n ∧ n ≤ 57 then n - 48
    else if 65 ≤ n ∧ n ≤ 70 then n - 55
    else if 97 ≤ n ∧ n ≤ 102 then n - 87
    else base
  if v < base then some v else none

/-- The value of a non-empty run of digits, `acc` so far. -/
def digitsValue (base : Nat) : List Char → Nat → Option Nat
  | [], acc => some acc
  | c :: cs, acc => (digitValue base c).bind (fun d => digitsValue base cs (acc * base + d))

/-- A number (30_encoding.md R69). -/
def numberValue : List Char → Option Nat
  | [] => none
  | ['0', 'x'] => none
  | '0' :: 'x' :: cs => digitsValue 16 cs 0
  | c :: cs => digitsValue 10 (c :: cs) 0

/-- The code of an ASCII character (30_encoding.md R69). -/
def asciiCode (c : Char) : Option Nat := if c.toNat < 128 then some c.toNat else none

/-- The value of an operand (30_encoding.md R69). -/
def operandValue : Token → Option Nat
  | .bare cs => numberValue cs
  | .char c => asciiCode c
  | .str _ => none
  | .comma => none

/-- An operand of `w` bits, if it fits. -/
def operandBits (w : Nat) (t : Token) : Option (BitVec w) :=
  (operandValue t).bind (fun n => if n < 2 ^ w then some (BitVec.ofNat w n) else none)

/-- The bytes of an ASCII string (30_encoding.md R70). -/
def stringBytes (cs : List Char) : Option (List Byte) := cs.mapM (fun c => (asciiCode c).map (BitVec.ofNat 8))

/-- A line with one operand of `w` bits. -/
def oneOperand (w : Nat) (mk : BitVec w → List Instr) : List Token → Option (List Instr)
  | [t] => (operandBits w t).map mk
  | _ => none

/-- A line with no operand. -/
def noOperand (i : Instr) : List Token → Option (List Instr)
  | [] => some [i]
  | _ => none

/-- A line with one string. -/
def oneString (mk : List Byte → List Instr) : List Token → Option (List Instr)
  | [.str cs] => (stringBytes cs).map mk
  | _ => none

/-- The operands of `WAIT n`: one number of any size. -/
def waitOperand : List Token → Option (List Instr)
  | [t] => (operandValue t).map (fun n => expandPseudo (.wait n))
  | _ => none

/-- The operands of `RECV_FIXED t, n`. -/
def recvFixedOperands : List Token → Option (List Instr)
  | [t, .comma, n] =>
    (operandBits 16 t).bind (fun t => (operandBits 16 n).map (fun n => expandPseudo (.recvFixed t n)))
  | _ => none

/-- The mnemonics (30_encoding.md R66, R70), each with the reading of its operands. -/
def assemblerTable : List (List Char × (List Token → Option (List Instr))) :=
  [(['N', 'O', 'P'], noOperand .nop),
   (['R', 'S', 'T'], noOperand .rst),
   (['C', 'R', 'C', '_', 'C', 'L', 'R'], noOperand .crcClr),
   (['C', 'R', 'C', '_', 'B', 'Y', 'T', 'E'], oneOperand 8 (fun b => [.crcByte b])),
   (['C', 'R', 'C', '_', 'F', 'I', 'N'], noOperand .crcFin),
   (['T', 'X', '_', 'C', 'L', 'R'], noOperand .txClr),
   (['T', 'X', '_', 'P', 'U', 'T'], oneOperand 8 (fun b => [.txPut b])),
   (['T', 'X', '_', 'E', 'N', 'D'], noOperand .txEnd)] ++
  [(['S', 'E', 'T', '_', 'T', 'L', 'I', 'M', 'I', 'T'], oneOperand 16 (fun v => [.setTlimit v])),
   (['S', 'E', 'T', '_', 'E', 'X', 'P', 'L', 'E', 'N'], oneOperand 16 (fun v => [.setExplen v])),
   (['R', 'X', '_', 'S', 'T', 'A', 'R', 'T'], oneOperand 1 (fun m => [.rxStart m])),
   (['R', 'X', '_', 'B', 'Y', 'T', 'E'], oneOperand 8 (fun b => [.rxByte b])),
   (['T', 'I', 'C', 'K'], noOperand .tick),
   (['R', 'D'], oneOperand 16 (fun a => [.rd a]))] ++
  [(['C', 'R', 'C', '1', '6'], oneString (fun s => expandPseudo (.crc16 s))),
   (['S', 'E', 'N', 'D'], oneString (fun s => expandPseudo (.send s))),
   (['F', 'E', 'E', 'D'], fun ts => (ts.mapM (operandBits 8)).map (fun bytes => expandPseudo (.feed bytes))),
   (['W', 'A', 'I', 'T'], waitOperand),
   (['R', 'E', 'C', 'V', '_', 'S', 'C', 'A', 'N'], oneOperand 16 (fun t => expandPseudo (.recvScan t))),
   (['R', 'E', 'C', 'V', '_', 'F', 'I', 'X', 'E', 'D'], recvFixedOperands)]

/-- The reading of a mnemonic's operands. -/
def findMnemonic (name : List Char) :
    List (List Char × (List Token → Option (List Instr))) → Option (List Token → Option (List Instr))
  | [] => none
  | (m, f) :: rows => if name = m then some f else findMnemonic name rows

/-- The events of one line; a line with nothing but a comment holds none (30_encoding.md R69). -/
def assembleLine (line : List Char) : Option (List Instr) :=
  match lexLine line (.bare []) with
  | some [] => some []
  | some (.bare name :: ts) => (findMnemonic name assemblerTable).bind (fun f => f ts)
  | _ => none

/-- The events of a program, top to bottom (30_encoding.md R69). -/
def assembleProgram : List (List Char) → Option (List Instr)
  | [] => some []
  | line :: lines => (assembleLine line).bind (fun is => (assembleProgram lines).map (is ++ ·))

end Sys2Proof.Machine
end

