-- ==== Sys2Proof/Safety.lean ====
section
/-!
DEFINITION. What claims about the block are stated in: the invariants of 10_state.md R36 and what supports them, the
premises of 70_reset_and_hazards.md R188, the writers of 10_state.md R11 and the sequence errors of
60_exceptions.md R158.
-/

namespace Sys2Proof.Machine

/-- The invariants "that hold after reset and after every event" (10_state.md R36), item by item. -/
structure SpecInv (s : State) : Prop where
  /-- (i) -/
  errIffFail : s.err ≠ none ↔ s.st = .fail
  /-- (ii) -/
  wptrInBuffer : s.wptr.toNat ≤ s.cfg.bufCap
  /-- (iii) -/
  idleIsClear : s.st = .idle → s.wptr = 0 ∧ s.flen = 0 ∧ s.paylen = 0 ∧ s.tmr = 0 ∧ s.err = none
  /-- (iv) -/
  doneHoldsFrame : s.st = .done → 4 ≤ s.flen.toNat ∧ s.flen = s.wptr ∧ s.flen.toNat ≤ s.cfg.bufCap ∧
    s.paylen = s.flen - 4 ∧ s.cell .buf 0 = some 0x28 ∧ s.cell .buf (s.flen.toNat - 3) = some 0x00
  /-- (v) -/
  recvIsOpen : s.st = .recv → s.flen = 0 ∧ s.paylen = 0 ∧ (1 ≤ s.tlimit.toNat → s.tmr.toNat < s.tlimit.toNat)
  /-- (vi) -/
  timeoutHasNoLength : s.st = .fail → s.err = some .readTimeout → s.flen = 0
  /-- (vii) -/
  badFrameHasLength : s.st = .fail → (s.err = some .malformedFrame ∨ s.err = some .checksumFailure) →
    s.flen = s.wptr ∧ 1 ≤ s.wptr.toNat
  /-- (viii) -/
  txHasRoom : s.txrdy = false → s.txlen.toNat + 3 ≤ s.cfg.bufCap
  /-- (ix) -/
  txHoldsFrame : s.txrdy = true → 3 ≤ s.txlen.toNat ∧ s.txlen.toNat ≤ s.cfg.bufCap ∧ s.txerr = false ∧
    s.cell .txbuf (s.txlen.toNat - 1) = some 0x0D
  /-- (x) -/
  statusHighBits : (statusWord s).extractLsb' 10 6 = 0

/-- One of the three byte values no CRC byte may have (30_encoding.md R62). -/
def reservedByte (b : Byte) : Bool := decide (b = 0x28) || decide (b = 0x0D) || decide (b = 0x0A)

/-- The invariant of the model: R36 with what its proof needs, each item a rule of the spec. -/
structure BlockInv (s : State) : Prop extends SpecInv s where
  /-- The parameter is legal (00_scope.md R4). -/
  capLegal : s.cfg.wellFormed
  /-- Both buffers keep their canonical form. -/
  cellsCanonical : ∀ b, Memory.wf (s.cells b) = true
  /-- Only cells inside the buffers exist (20_memory.md R40, R46). -/
  cellsInBuffer : ∀ b i v, s.cell b i = some v → i < s.cfg.bufCap
  /-- The cells of the current receive are written (20_memory.md R49). -/
  receivedWritten : ∀ i, i < s.wptr.toNat → s.cell .buf i ≠ none
  /-- The cells of the command or outbound frame are written (20_memory.md R49). -/
  commandWritten : ∀ i, i < s.txlen.toNat → s.cell .txbuf i ≠ none
  /-- A fixed-mode receive has a usable length it has not reached (42_rx_framer.md R113, R116, R117). -/
  fixedLengthAhead : s.st = .recv → s.mode = .fixed →
    4 ≤ s.explen.toNat ∧ s.explen.toNat ≤ s.cfg.bufCap ∧ s.wptr.toNat < s.explen.toNat
  /-- A scan-mode receive has stored no terminator yet (42_rx_framer.md R115). -/
  scanSawNoTerminator : s.st = .recv → s.mode = .scan → ∀ i, i < s.wptr.toNat → s.cell .buf i ≠ some 0x0D
  /-- `TLIMIT` = 0 acts as 1 (10_state.md R19). -/
  zeroLimitTmr : s.st = .recv → s.tlimit = 0 → s.tmr = 0
  /-- `FLEN` ranges to `BUF_CAP` (10_state.md R16). -/
  flenInBuffer : s.flen.toNat ≤ s.cfg.bufCap
  /-- `PAYLEN` is 0 in every failure (10_state.md R17). -/
  failHasNoPayload : s.st = .fail → s.paylen = 0
  /-- `CRCOUT` holds no reserved byte (10_state.md R14). -/
  crcoutEscaped : reservedByte (highByte s.crcout) = false ∧ reservedByte (lowByte s.crcout) = false

/-- Nothing was refused: `ILL` = 0 and `SEQ` = 0 (70_reset_and_hazards.md R188 (b)). -/
abbrev Clean (s : State) : Prop := s.ill = false ∧ s.seq = false

/-- A terminal state (10_state.md R24). -/
abbrev Terminal (s : State) : Prop := s.st = .done ∨ s.st = .fail

/-- A receive that an RX_START has just opened (42_rx_framer.md R113). -/
abbrev FreshReceive (s : State) (mode : Strategy) : Prop :=
  s.st = .recv ∧ s.mode = mode ∧ s.wptr = 0 ∧ s.tmr = 0

/-- The timeout window in ticks, `max(TLIMIT, 1)` (42_rx_framer.md R121, R122). -/
def window (s : State) : Nat := max s.tlimit.toNat 1

/-- The operands of the RX_BYTE events of a sequence, in order. -/
def bytesOf : List Instr → List Byte
  | [] => []
  | .rxByte b :: is => b :: bytesOf is
  | _ :: is => bytesOf is

/-- The number of TICK events of a sequence. -/
def ticksOf (is : List Instr) : Nat := is.countP (fun i => decide (i = .tick))

/-- The events that may write each register (10_state.md R11); `STATUS` is written field by field and is not
in the table. -/
def mayWrite : Reg → Instr → Bool
  | .status, _ => true
  | .acc, i => match i with | .rst => true | .crcClr => true | .crcByte _ => true | _ => false
  | .crcout, i => match i with | .rst => true | .crcFin => true | _ => false
  | .wptr, i => match i with | .rst => true | .rxStart _ => true | .rxByte _ => true | _ => false
  | .flen, i => match i with | .rst => true | .rxStart _ => true | .rxByte _ => true | _ => false
  | .paylen, i => match i with | .rst => true | .rxStart _ => true | .rxByte _ => true | _ => false
  | .tmr, i => match i with | .rst => true | .rxStart _ => true | .tick => true | _ => false
  | .tlimit, i => match i with | .rst => true | .setTlimit _ => true | _ => false
  | .explen, i => match i with | .rst => true | .setExplen _ => true | _ => false
  | .txlen, i => match i with | .rst => true | .txClr => true | .txPut _ => true | .txEnd => true | _ => false

/-- The complete list of sequence errors (60_exceptions.md R158). -/
def sequenceError (i : Instr) (s : State) : Bool :=
  match i with
  | .rxStart m => decide (s.st = .recv) ||
      (decide (m = 1) && (decide (s.explen.toNat < 4) || decide (s.cfg.bufCap < s.explen.toNat)))
  | .setTlimit _ => decide (s.st = .recv)
  | .setExplen _ => decide (s.st = .recv)
  | .txPut _ => s.txrdy
  | .txEnd => s.txrdy
  | .nop => false
  | .rst => false
  | .crcClr => false
  | .crcByte _ => false
  | .crcFin => false
  | .txClr => false
  | .rxByte _ => false
  | .tick => false
  | .rd _ => false

/-- Whether an RX_BYTE that is stored ends the frame (42_rx_framer.md R114 to R116). -/
abbrev terminates (b : Byte) (s : State) : Prop :=
  (s.mode = .scan ∧ b = 0x0D) ∨ (s.mode = .fixed ∧ s.wptr + 1 = s.explen)

/-- One step of the bit-serial form of the CRC (40_crc.md R89). -/
def bitSerialStep (c : Word) : Word := if c.getLsbD 15 then (c <<< 1) ^^^ 0x1021 else c <<< 1

/-- The next state of an outcome, `none` where it stops. -/
def nextOf (o : Result) : Option State :=
  match o with
  | .next s => some s
  | .fault _ => none
  | .refused _ => none

end Sys2Proof.Machine
end

