-- ==== Sys2Proof/Certificates/Slice0/Obligations.lean ====
section
/-!
DEFINITION. The statements about the block, for the provers. Each docstring names the rule or section of spec/ it comes
from. A statement with `t = { s with … }` says the frame too: every field not named is unchanged.
-/

open Sys2Proof Sys2Proof.Machine

/-! ### Encoding -/

/-- Words written out from the opcode map and the vectors of 95_test_vectors.md decode to their events, and
the illegal words of its section 2.5 to none (30_encoding.md R65 to R67). -/
def Obligations.SampleWordsDecode : Prop :=
  decode 0x00000 = .ok .nop ∧ decode 0x10000 = .ok .rst ∧ decode 0x20000 = .ok .crcClr ∧
  decode 0x30051 = .ok (.crcByte 0x51) ∧ decode 0x40000 = .ok .crcFin ∧ decode 0x50000 = .ok .txClr ∧
  decode 0x6004D = .ok (.txPut 0x4D) ∧ decode 0x70000 = .ok .txEnd ∧ decode 0x807D0 = .ok (.setTlimit 2000) ∧
  decode 0x90005 = .ok (.setExplen 5) ∧ decode 0xA0000 = .ok (.rxStart 0) ∧ decode 0xA0001 = .ok (.rxStart 1) ∧
  decode 0xB000D = .ok (.rxByte 0x0D) ∧ decode 0xC0000 = .ok .tick ∧ decode 0xE1001 = .ok (.rd 0x1001) ∧
  decode 0xD0000 = .error (.reservedOpcode 0xD) ∧ decode 0xF1234 = .error (.reservedOpcode 0xF) ∧
  decode 0x00001 = .error (.mustBeZero 0x0 0x0001) ∧ decode 0x10001 = .error (.mustBeZero 0x1 0x0001) ∧
  decode 0x30100 = .error (.mustBeZero 0x3 0x0100) ∧ decode 0xB0128 = .error (.mustBeZero 0xB 0x0128) ∧
  decode 0xC0001 = .error (.mustBeZero 0xC 0x0001) ∧ decode 0xA0002 = .error (.mustBeZero 0xA 0x0002)

/-- Decoding the word of an event gives the event back, with every operand (30_encoding.md R64 to R66). -/
def Obligations.DecodeEncodeRoundTrip : Prop := ∀ i : Instr, decode (encode i) = .ok i

/-- Every event has one word: a word that decodes is the word of its event (30_encoding.md R65, R66). -/
def Obligations.EncodeDecodeRoundTrip : Prop := ∀ (w : EventWord) (i : Instr), decode w = .ok i → encode i = w

/-- A word is an event iff `w & mask == match` for a row of the map, and then its own (30_encoding.md R66); a word
that no row matches is illegal, and no other is (R67). -/
def Obligations.DecodeFollowsTheMap : Prop :=
  (∀ (w : EventWord) (i : Instr), decode w = .ok i → rowOf i ∈ opcodeMap ∧ w &&& (rowOf i).mask = (rowOf i).pattern) ∧
  (∀ w : EventWord, (∃ e, decode w = .error e) ↔ ∀ r ∈ opcodeMap, w &&& r.mask ≠ r.pattern)

/-- "The masks do not overlap": no word matches two rows (30_encoding.md R66). -/
def Obligations.OpcodeRowsAreDisjoint : Prop :=
  ∀ (w : EventWord) (r1 r2 : Row), r1 ∈ opcodeMap → r2 ∈ opcodeMap →
    w &&& r1.mask = r1.pattern → w &&& r2.mask = r2.pattern → r1 = r2

/-! ### The step -/

/-- A word on the host port that decodes is executed on the state with the input moved past it; the free draw
moves as `drawsAfter` says, the model's choice of log 4, as the input list is that of log 1 (00_scope.md R7,
30_encoding.md R71). -/
def Obligations.StepRunsHostWord : Prop :=
  ∀ (s : State) (w : EventWord) (rx : Option Byte) (tick : Bool) (rest : List Input) (i : Instr),
    s.inputs = .cycle ⟨some w, rx, tick⟩ :: rest → decode w = .ok i →
    step s = exec i { s with inputs := putBack ⟨none, rx, tick⟩ rest, draws := drawsAfter i s.draws }

/-- A byte of the line port is RX_BYTE, a tick of the timebase is TICK (30_encoding.md R71). That the input stands in
the state is the model's choice of log 1, that the free draw moves as `drawsAfter` says that of log 4. -/
def Obligations.StepRunsLineByteAndTick : Prop :=
  (∀ (s : State) (b : Byte) (tick : Bool) (rest : List Input), s.inputs = .cycle ⟨none, some b, tick⟩ :: rest →
    step s = exec (.rxByte b)
      { s with inputs := putBack ⟨none, none, tick⟩ rest, draws := drawsAfter (.rxByte b) s.draws }) ∧
  (∀ (s : State) (rest : List Input), s.inputs = .cycle ⟨none, none, true⟩ :: rest →
    step s = exec .tick { s with inputs := rest, draws := drawsAfter .tick s.draws })

/-- The events of one clock cycle are consumed in the order host, line, timebase (20_memory.md R47,
30_encoding.md R71); that clock cycles stand in the state as a list is the model's choice of log 1. -/
def Obligations.SameCycleOrder : Prop :=
  ∀ (w : EventWord) (b : Byte) (rest : List Input),
    nextEvent (.cycle ⟨some w, some b, true⟩ :: rest) = some (.host w, .cycle ⟨none, some b, true⟩ :: rest) ∧
    nextEvent (.cycle ⟨none, some b, true⟩ :: rest) = some (.line b, .cycle ⟨none, none, true⟩ :: rest) ∧
    nextEvent (.cycle ⟨none, none, true⟩ :: rest) = some (.timebase, rest)

/-- An illegal word on the host port has exactly one effect, `ILL <- 1` (30_encoding.md R67); the input and the
free draw are the model's own (logs 1, 4). -/
def Obligations.IllegalWordSetsIllOnly : Prop :=
  ∀ (s : State) (w : EventWord) (rx : Option Byte) (tick : Bool) (rest : List Input) (e : Illegal),
    s.inputs = .cycle ⟨some w, rx, tick⟩ :: rest → decode w = .error e →
    ∃ t, step s = .next t ∧
      t = { s with ill := true, inputs := putBack ⟨none, rx, tick⟩ rest, draws := t.draws }

/-- With no event the state does not change (00_scope.md R7): not at all when the input is empty, and only the
input, the model's own (log 1), moves on in a clock cycle in which no port presents an event. -/
def Obligations.NoEventChangesNothing : Prop :=
  (∀ s : State, s.inputs = [] → step s = .next s) ∧
  (∀ (s : State) (rest : List Input), s.inputs = .cycle ⟨none, none, false⟩ :: rest →
    step s = .next { s with inputs := rest })

/-- The `rst_n` pin has the effect of RST (70_reset_and_hazards.md R170). That the pin is one item of the input, acts
between events and presents none is the model's choice of log 6 (unsafe); the free draw is left open (log 4). -/
def Obligations.ResetPinActsAsRst : Prop :=
  ∀ (s : State) (rest : List Input), s.inputs = .resetPin :: rest →
    ∃ t, step s = .next t ∧ t.inputs = rest ∧ exec .rst { s with inputs := rest, draws := t.draws } = .next t

/-! ### The CRC -/

/-- Table law: `TBL[i] = (i << 12) ^ (i << 5) ^ i`, with the document's first and last entry
(40_crc.md R80, R81). -/
def Obligations.CrcTableLaw : Prop :=
  (∀ i : Nibble, crcEntry i = ((i.setWidth 16) <<< 12) ^^^ ((i.setWidth 16) <<< 5) ^^^ (i.setWidth 16)) ∧
  crcEntry 0 = 0x0000 ∧ crcEntry 15 = 0xF1EF

/-- The nibble step in numbers: the accumulator times 16 with the four bits shifted out discarded, and the
table entry as a multiple of 0x1021, its index from the accumulator before the shift (40_crc.md R81, R82). -/
def Obligations.NibbleStepInNumbers : Prop :=
  ∀ (acc : Word) (n : Nibble),
    (nibbleStep acc n).toNat = (acc.toNat * 16 % 65536) ^^^ (((acc.toNat / 4096) ^^^ n.toNat) * 0x1021)

/-- The byte step is eight bit-serial steps on the accumulator with the byte folded into its high byte: the CRC
is CRC-16/XMODEM (40_crc.md R89). -/
def Obligations.ByteStepIsBitSerial : Prop :=
  ∀ (acc : Word) (b : Byte), byteStep acc b = bitSerialStep^[8] (acc ^^^ ((b.setWidth 16) <<< 8))

/-- `crc16_raw` is linear over exclusive-or for inputs of equal length (40_crc.md R89). -/
def Obligations.RawCrcIsLinear : Prop :=
  ∀ x y : List Byte, x.length = y.length →
    crc16Raw (List.zipWith (· ^^^ ·) x y) = crc16Raw x ^^^ crc16Raw y

/-- The raw CRC of a sequence followed by its own raw CRC is 0x0000 (40_crc.md R89). -/
def Obligations.RawCrcResidueIsZero : Prop :=
  ∀ s : List Byte, crc16Raw (s ++ [highByte (crc16Raw s), lowByte (crc16Raw s)]) = 0x0000

/-- The escape (40_crc.md R86): the three reserved values are incremented and no other value changes; once is
enough; exactly the named pairs collide; it acts on each byte of the pair on its own. -/
def Obligations.EscapeOfCrcBytes : Prop :=
  esc 0x28 = 0x29 ∧ esc 0x0D = 0x0E ∧ esc 0x0A = 0x0B ∧
  (∀ x : Byte, reservedByte x = false → esc x = x) ∧
  (∀ x : Byte, esc (esc x) = esc x) ∧
  esc 0x29 = esc 0x28 ∧ esc 0x0E = esc 0x0D ∧ esc 0x0B = esc 0x0A ∧
  (∀ r : Word, highByte (escapePair r) = esc (highByte r) ∧ lowByte (escapePair r) = esc (lowByte r))

/-- `crc16` never returns a value whose high or low byte is 0x28, 0x0D or 0x0A (40_crc.md R93 (b)). -/
def Obligations.EscapedCrcAvoidsReservedBytes : Prop :=
  ∀ s : List Byte, reservedByte (highByte (crc16 s)) = false ∧ reservedByte (lowByte (crc16 s)) = false

/-- `CRC16 s` leaves `CRCOUT` = `crc16(s)` from any start state (40_crc.md R93 (a), 30_encoding.md R70). -/
def Obligations.CrcPseudoComputesCrc16 : Prop :=
  ∀ (bytes : List Byte) (s : State),
    execAll (expandPseudo (.crc16 bytes)) s = .next { s with acc := crc16Raw bytes, crcout := crc16 bytes }

/-- CRC_CLR (40_crc.md R90). -/
def Obligations.CrcClrResult : Prop :=
  decode 0x20000 = .ok .crcClr ∧ ∀ s : State, exec .crcClr s = .next { s with acc := 0x0000 }

/-- CRC_BYTE (40_crc.md R91, R83): accepted in every state, the high nibble first; a zero byte leaves a zero
accumulator. -/
def Obligations.CrcByteResult : Prop :=
  (∀ b : Byte, decode (0x3#4 ++ 0x00#8 ++ b) = .ok (.crcByte b)) ∧
  (∀ (b : Byte) (s : State), exec (.crcByte b) s =
    .next { s with acc := nibbleStep (nibbleStep s.acc (b.extractLsb' 4 4)) (b.extractLsb' 0 4) }) ∧
  (∀ s : State, s.acc = 0x0000 → exec (.crcByte 0x00) s = .next s)

/-- CRC_FIN (40_crc.md R92). -/
def Obligations.CrcFinResult : Prop :=
  decode 0x40000 = .ok .crcFin ∧
  ∀ s : State, exec .crcFin s = .next { s with crcout := esc (highByte s.acc) ++ esc (lowByte s.acc) }

/-! ### The encoder -/

/-- `encode(c)` (41_tx_encoder.md R100). -/
def Obligations.EncodeContract : Prop :=
  (∀ (cap : Nat) (c : List Byte), c.length + 3 > cap → encodeCommand cap c = none) ∧
  (∀ (cap : Nat) (c : List Byte), c.length + 3 ≤ cap →
    encodeCommand cap c = some (c ++ [highByte (crc16 c), lowByte (crc16 c)] ++ [0x0D])) ∧
  encodeCommand 3 [] = some [0x00, 0x00, 0x0D]

/-- TX_CLR (41_tx_encoder.md R101), and that no other event but RST clears `TXERR` or unfreezes a finished
frame. -/
def Obligations.TxClrResult : Prop :=
  decode 0x50000 = .ok .txClr ∧
  (∀ s : State, exec .txClr s = .next { s with txlen := 0, txrdy := false, txerr := false }) ∧
  ∀ (i : Instr) (s t : State), exec i s = .next t → i ≠ .txClr → i ≠ .rst →
    (s.txrdy = true → t.txrdy = true ∧ t.txlen = s.txlen ∧ t.txbuf = s.txbuf) ∧
    (s.txerr = true → t.txerr = true)

/-- TX_PUT (41_tx_encoder.md R102), every case. -/
def Obligations.TxPutResult : Prop :=
  (∀ b : Byte, decode (0x6#4 ++ 0x00#8 ++ b) = .ok (.txPut b)) ∧
  ∀ (b : Byte) (s : State),
    (s.txrdy = true → exec (.txPut b) s = .next { s with seq := true }) ∧
    (s.txrdy = false → s.txerr = true → exec (.txPut b) s = .next s) ∧
    (s.txrdy = false → s.txerr = false → s.txlen.toNat + 4 > s.cfg.bufCap →
      exec (.txPut b) s = .next { s with txerr := true }) ∧
    (s.txrdy = false → s.txerr = false → s.txlen.toNat + 4 ≤ s.cfg.bufCap →
      ∃ t, exec (.txPut b) s = .next t ∧ t = { s with txlen := s.txlen + 1, txbuf := t.txbuf } ∧
        ∀ j, t.cell .txbuf j = if j = s.txlen.toNat then some b else s.cell .txbuf j)

/-- TX_END (41_tx_encoder.md R103), every case; room for the trailer is 10_state.md R36 (viii). -/
def Obligations.TxEndResult : Prop :=
  decode 0x70000 = .ok .txEnd ∧
  ∀ s : State,
    (s.txrdy = true → exec .txEnd s = .next { s with seq := true }) ∧
    (s.txrdy = false → s.txerr = true → exec .txEnd s = .next s) ∧
    (s.txrdy = false → s.txerr = false → s.txlen.toNat + 3 ≤ s.cfg.bufCap →
      ∃ t, exec .txEnd s = .next t ∧
        t = { s with txlen := s.txlen + 3, txrdy := true, txbuf := t.txbuf } ∧
        ∀ j, t.cell .txbuf j =
          if j = s.txlen.toNat then some (highByte (crc16 (memReadFirst .txbuf s.txlen.toNat s)))
          else if j = s.txlen.toNat + 1 then some (lowByte (crc16 (memReadFirst .txbuf s.txlen.toNat s)))
          else if j = s.txlen.toNat + 2 then some 0x0D
          else s.cell .txbuf j)

/-- `SEND c` realises `encode(c)`: after TX_CLR, the bytes of `c` and TX_END the buffer holds the frame, or the
error is latched if the frame does not fit (41_tx_encoder.md R100, R103). -/
def Obligations.SendAssemblesEncodedFrame : Prop :=
  ∀ (c : List Byte) (s : State), s.cfg.wellFormed →
    ∃ t, execAll (expandPseudo (.send c)) s = .next t ∧
      t = { s with txbuf := t.txbuf, txlen := t.txlen, txrdy := t.txrdy, txerr := t.txerr } ∧
      match encodeCommand s.cfg.bufCap c with
      | some frame => t.txrdy = true ∧ t.txerr = false ∧ t.txlen.toNat = frame.length ∧
          ∀ j, t.cell .txbuf j = if j < frame.length then frame[j]? else s.cell .txbuf j
      | none => t.txrdy = false ∧ t.txerr = true ∧ t.txlen.toNat = s.cfg.bufCap - 3

/-! ### The receiver -/

/-- SET_TLIMIT (42_rx_framer.md R111); a stored 0 acts as 1. -/
def Obligations.SetTlimitResult : Prop :=
  (∀ v : Word, decode (0x8#4 ++ v) = .ok (.setTlimit v)) ∧
  (∀ (v : Word) (s : State),
    (s.st = .recv → exec (.setTlimit v) s = .next { s with seq := true }) ∧
    (s.st ≠ .recv → exec (.setTlimit v) s = .next { s with tlimit := v })) ∧
  ∀ s : State, ∃ t : State, exec .tick { s with tlimit := 0 } = .next { t with tlimit := 0 } ∧
    exec .tick { s with tlimit := 1 } = .next { t with tlimit := 1 }

/-- SET_EXPLEN (42_rx_framer.md R112). -/
def Obligations.SetExplenResult : Prop :=
  (∀ v : Word, decode (0x9#4 ++ v) = .ok (.setExplen v)) ∧
  ∀ (v : Word) (s : State),
    (s.st = .recv → exec (.setExplen v) s = .next { s with seq := true }) ∧
    (s.st ≠ .recv → exec (.setExplen v) s = .next { s with explen := v })

/-- RX_START (42_rx_framer.md R113), every case, and that only RST, a terminating byte and the timeout leave
`RECV`. -/
def Obligations.RxStartResult : Prop :=
  (∀ m : BitVec 1, decode (0xA#4 ++ 0x0000#15 ++ m) = .ok (.rxStart m)) ∧
  (∀ (m : BitVec 1) (s : State),
    (s.st = .recv → exec (.rxStart m) s = .next { s with seq := true }) ∧
    (s.st ≠ .recv → m = 1 → (s.explen.toNat < 4 ∨ s.explen.toNat > s.cfg.bufCap) →
      exec (.rxStart m) s = .next { s with seq := true }) ∧
    (s.st ≠ .recv → m = 1 → 4 ≤ s.explen.toNat → s.explen.toNat ≤ s.cfg.bufCap →
      exec (.rxStart m) s = .next { s with
        st := .recv, err := none, mode := .fixed, wptr := 0, flen := 0, paylen := 0, tmr := 0 }) ∧
    (s.st ≠ .recv → m = 0 →
      exec (.rxStart m) s = .next { s with
        st := .recv, err := none, mode := .scan, wptr := 0, flen := 0, paylen := 0, tmr := 0 })) ∧
  ∀ (i : Instr) (s t : State), exec i s = .next t → s.st = .recv → t.st ≠ .recv →
    i = .rst ∨ (i = .tick ∧ t.err = some .readTimeout) ∨ ∃ b, i = .rxByte b ∧ terminates b s

/-- An RX_BYTE outside a receive changes nothing (42_rx_framer.md R118), nor does one into a full buffer
(R117). -/
def Obligations.RxByteIsDropped : Prop :=
  ∀ (b : Byte) (s : State),
    (s.st ≠ .recv → exec (.rxByte b) s = .next s) ∧
    (s.st = .recv → s.wptr.toNat = s.cfg.bufCap → exec (.rxByte b) s = .next s)

/-- An RX_BYTE that does not end the frame stores its byte at `BUF[WPTR]` and counts it
(42_rx_framer.md R114). -/
def Obligations.RxByteStoresByte : Prop :=
  ∀ (b : Byte) (s : State), s.st = .recv → s.wptr.toNat < s.cfg.bufCap → ¬ terminates b s →
    ∃ t, exec (.rxByte b) s = .next t ∧ t = { s with wptr := s.wptr + 1, buf := t.buf } ∧
      ∀ j, t.cell .buf j = if j = s.wptr.toNat then some b else s.cell .buf j

/-- The RX_BYTE that ends a frame judges it (43_validator.md R130 to R135): `BUF[0..L-1]` is the frame, its start
marker, its length and its CRC pair are tested in this order, and only a success writes more than the byte. -/
def Obligations.RxByteJudgesFrame : Prop :=
  ∀ (b : Byte) (s : State), s.cfg.wellFormed → s.st = .recv → s.wptr.toNat < s.cfg.bufCap → terminates b s →
    ∃ t, exec (.rxByte b) s = .next t ∧
      t = { s with
        wptr := s.wptr + 1, flen := s.wptr + 1, buf := t.buf, st := t.st, err := t.err, paylen := t.paylen } ∧
      let frame := memReadFirst .buf s.wptr.toNat s ++ [b]
      let k := crc16 (frame.take (frame.length - 3))
      let stored := fun j => if j = s.wptr.toNat then some b else s.cell .buf j
      if frame[0]? ≠ some 0x28 then
        t.st = .fail ∧ t.err = some .malformedFrame ∧ t.paylen = s.paylen ∧ ∀ j, t.cell .buf j = stored j
      else if frame.length < 4 then
        t.st = .fail ∧ t.err = some .checksumFailure ∧ t.paylen = s.paylen ∧ ∀ j, t.cell .buf j = stored j
      else if frame[frame.length - 3]? = some (highByte k) ∧ frame[frame.length - 2]? = some (lowByte k) then
        t.st = .done ∧ t.err = none ∧ t.paylen.toNat = frame.length - 4 ∧
          ∀ j, t.cell .buf j = if j = frame.length - 3 then some 0x00 else stored j
      else
        t.st = .fail ∧ t.err = some .checksumFailure ∧ t.paylen = s.paylen ∧ ∀ j, t.cell .buf j = stored j

/-- TICK (42_rx_framer.md R119). -/
def Obligations.TickResult : Prop :=
  decode 0xC0000 = .ok .tick ∧
  ∀ s : State,
    (s.st ≠ .recv → exec .tick s = .next s) ∧
    (s.st = .recv → min (s.tmr.toNat + 1) 0xFFFF ≥ s.tlimit.toNat →
      exec .tick s = .next { s with
        tmr := BitVec.ofNat 16 (min (s.tmr.toNat + 1) 0xFFFF), st := .fail, err := some .readTimeout }) ∧
    (s.st = .recv → min (s.tmr.toNat + 1) 0xFFFF < s.tlimit.toNat →
      exec .tick s = .next { s with tmr := BitVec.ofNat 16 (min (s.tmr.toNat + 1) 0xFFFF) })

/-- Feeding `encode('(' ++ p)` to a fresh scan-mode receive ends in `DONE` with payload `p` and the null
after it, for any `p` that fits and holds no terminator (41_tx_encoder.md R106 (b), 43_validator.md R134). -/
def Obligations.EncodedFrameIsAccepted : Prop :=
  ∀ (p : List Byte) (s : State), s.cfg.wellFormed → FreshReceive s .scan → p.length + 4 ≤ s.cfg.bufCap →
    0x0D ∉ p →
    encodeCommand s.cfg.bufCap (0x28 :: p) = some (inboundFrame p) ∧
    ∃ t, execAll (expandPseudo (.feed (inboundFrame p))) s = .next t ∧
      t.st = .done ∧ t.err = none ∧ t.flen.toNat = p.length + 4 ∧ t.wptr = t.flen ∧ t.paylen.toNat = p.length ∧
      (∀ j, j < p.length → t.cell .buf (j + 1) = p[j]?) ∧ t.cell .buf (p.length + 1) = some 0x00

/-- Chunking independence (42_rx_framer.md R121): in scan mode the frame length is the position of the first
terminator plus one, whatever events but RST stand between the bytes, as long as the window is not used up. -/
def Obligations.ScanLengthIgnoresChunking : Prop :=
  ∀ (s : State) (before : List Instr), BlockInv s → FreshReceive s .scan → .rst ∉ before → 0x0D ∉ bytesOf before →
    (bytesOf before).length + 1 ≤ s.cfg.bufCap → ticksOf before < window s →
    ∃ t, execAll (before ++ [.rxByte 0x0D]) s = .next t ∧ t.flen.toNat = (bytesOf before).length + 1 ∧
      Terminal t ∧ t.err ≠ some .readTimeout

/-- Chunking independence in fixed mode: the frame ends at the byte that makes `WPTR` = `EXPLEN`
(42_rx_framer.md R116, R121). -/
def Obligations.FixedLengthIgnoresChunking : Prop :=
  ∀ (s : State) (before : List Instr) (b : Byte), BlockInv s → FreshReceive s .fixed → .rst ∉ before →
    (bytesOf before).length + 1 = s.explen.toNat → ticksOf before < window s →
    ∃ t, execAll (before ++ [.rxByte b]) s = .next t ∧ t.flen = s.explen ∧
      Terminal t ∧ t.err ≠ some .readTimeout

/-- Timeout boundary (42_rx_framer.md R122): the receive fails with `ReadTimeout` at the `max(TLIMIT, 1)`-th TICK
when no byte ended it before, whatever events but RST stand between. -/
def Obligations.TimeoutEndsTheWindow : Prop :=
  ∀ (s : State) (mode : Strategy) (before : List Instr), BlockInv s → FreshReceive s mode → .rst ∉ before →
    (mode = .scan → 0x0D ∉ bytesOf before) → (mode = .fixed → (bytesOf before).length < s.explen.toNat) →
    ticksOf before + 1 = window s →
    ∃ t, execAll (before ++ [.tick]) s = .next t ∧ t.st = .fail ∧ t.err = some .readTimeout ∧
      t.tmr.toNat = window s ∧ t.flen = 0 ∧ t.paylen = 0

/-- The result of a receive lasts until RX_START or RST (70_reset_and_hazards.md R183, R187,
60_exceptions.md R161). -/
def Obligations.TerminalResultLasts : Prop :=
  ∀ (s : State) (is : List Instr), BlockInv s → Terminal s → .rst ∉ is → (∀ m, .rxStart m ∉ is) →
    ∃ t, execAll is s = .next t ∧ t.st = s.st ∧ t.err = s.err ∧ t.mode = s.mode ∧ t.wptr = s.wptr ∧
      t.flen = s.flen ∧ t.paylen = s.paylen ∧ t.tmr = s.tmr ∧ t.buf = s.buf

/-! ### System and host access -/

/-- NOP (44_host_access.md R140). -/
def Obligations.NopResult : Prop := decode 0x00000 = .ok .nop ∧ ∀ s : State, exec .nop s = .next s

/-- RST (44_host_access.md R141): every register at its reset value of 10_state.md R37, the buffers kept. -/
def Obligations.RstResult : Prop :=
  decode 0x10000 = .ok .rst ∧ (∃ e, decode 0x10001 = .error e) ∧
  ∀ s : State, ∃ t, exec .rst s = .next t ∧ statusWord t = 0x0000 ∧
    t = { s with
      st := .idle, err := none, mode := .scan, txrdy := false, txerr := false, ill := false, seq := false,
      acc := 0x0000, crcout := 0x0000, wptr := 0, flen := 0, paylen := 0, tmr := 0, tlimit := 0, explen := 0,
      txlen := 0, rdata := 0x0000 }

/-- RD changes nothing but `RDATA`, in every state and at every address, a reserved address and a never-written cell
included (44_host_access.md R142); 20_memory.md R44: an RD again with no event between reads the same, which for a
never-written cell rests on the model's choice of log 4. -/
def Obligations.RdChangesOnlyRdata : Prop :=
  (∀ a : Word, decode (0xE#4 ++ a) = .ok (.rd a)) ∧
  (∀ (a : Word) (s : State), ∃ t, exec (.rd a) s = .next t ∧ t = { s with rdata := t.rdata } ∧
    exec (.rd a) t = .next t)

/-- The RD address map (20_memory.md R41), every row; a cell never written reads as some byte. -/
def Obligations.RdAddressMap : Prop :=
  ∀ s : State,
    exec (.rd 0x0000) s = .next { s with rdata := statusWord s } ∧
    exec (.rd 0x0001) s = .next { s with rdata := s.acc } ∧
    exec (.rd 0x0002) s = .next { s with rdata := s.crcout } ∧
    exec (.rd 0x0003) s = .next { s with rdata := s.wptr } ∧
    exec (.rd 0x0004) s = .next { s with rdata := s.flen } ∧
    exec (.rd 0x0005) s = .next { s with rdata := s.paylen } ∧
    exec (.rd 0x0006) s = .next { s with rdata := s.tmr } ∧
    exec (.rd 0x0007) s = .next { s with rdata := s.tlimit } ∧
    exec (.rd 0x0008) s = .next { s with rdata := s.explen } ∧
    exec (.rd 0x0009) s = .next { s with rdata := s.txlen } ∧
    (∀ a : Word, 0x000A ≤ a.toNat → a.toNat ≤ 0x0FFF → exec (.rd a) s = .next { s with rdata := 0x0000 }) ∧
    (∀ (a : Word) (i : Nat), a.toNat = 0x1000 + i → i < 0x1000 →
      (s.cfg.bufCap ≤ i → exec (.rd a) s = .next { s with rdata := 0x0000 }) ∧
      (i < s.cfg.bufCap → ∃ v : Byte, exec (.rd a) s = .next { s with rdata := v.setWidth 16 } ∧
        ∀ x, s.cell .buf i = some x → v = x)) ∧
    (∀ (a : Word) (i : Nat), a.toNat = 0x2000 + i → i < 0x1000 →
      (s.cfg.bufCap ≤ i → exec (.rd a) s = .next { s with rdata := 0x0000 }) ∧
      (i < s.cfg.bufCap → ∃ v : Byte, exec (.rd a) s = .next { s with rdata := v.setWidth 16 } ∧
        ∀ x, s.cell .txbuf i = some x → v = x)) ∧
    (∀ a : Word, 0x3000 ≤ a.toNat → exec (.rd a) s = .next { s with rdata := 0x0000 })

/-- Two RD words of one address, one straight after the other on the host port, leave the same `RDATA`
(20_memory.md R44); for a never-written cell this rests on the model's choice of log 4. -/
def Obligations.RepeatedRdAgrees : Prop :=
  ∀ (s : State) (a : Word) (rest : List Input),
    s.inputs = .cycle ⟨some (encode (.rd a)), none, false⟩ :: .cycle ⟨some (encode (.rd a)), none, false⟩ :: rest →
    ∃ t u, step s = .next t ∧ step t = .next u ∧ u.rdata = t.rdata ∧ u.inputs = rest

/-! ### Status and reset -/

/-- The layout of `STATUS`, its number and its reset value (10_state.md R23), with the values of `ST` (R24). -/
def Obligations.StatusLayout : Prop :=
  statusWord State.reset = 0x0000 ∧
  ∀ s : State, exec (.rd 0x0000) s = .next { s with rdata := statusWord s } ∧
    (statusWord s).extractLsb' 0 2 = stCode s.st ∧ (statusWord s).extractLsb' 2 3 = errCode s.err ∧
    (statusWord s).getLsbD 5 = decide (s.mode = .fixed) ∧ (statusWord s).getLsbD 6 = s.txrdy ∧
    (statusWord s).getLsbD 7 = s.txerr ∧ (statusWord s).getLsbD 8 = s.ill ∧ (statusWord s).getLsbD 9 = s.seq ∧
    (statusWord s).extractLsb' 10 6 = 0 ∧
    stCode .idle = 0 ∧ stCode .recv = 1 ∧ stCode .done = 2 ∧ stCode .fail = 3

/-- The error numbering (60_exceptions.md R150), and that `ERR` shows only 0, 3, 4 and 5 (10_state.md R25). -/
def Obligations.ErrorNumbering : Prop :=
  errorCode .invalidCommand = 1 ∧ errorCode .deviceUnavailable = 2 ∧ errorCode .readTimeout = 3 ∧
  errorCode .malformedFrame = 4 ∧ errorCode .checksumFailure = 5 ∧
  errCode none = 0 ∧ errCode (some .readTimeout) = 3 ∧ errCode (some .malformedFrame) = 4 ∧
  errCode (some .checksumFailure) = 5

/-- Power-on (70_reset_and_hazards.md R172): every register at its reset value of 10_state.md R37 and no buffer
cell with a value. -/
def Obligations.PowerOnState : Prop :=
  statusWord State.reset = 0x0000 ∧ (∀ r : Reg, readReg r State.reset = 0x0000) ∧ State.reset.rdata = 0x0000 ∧
  ∀ (b : Buffer) (i : Nat), State.reset.cell b i = none

/-! ### The whole machine -/

/-- The invariant of 10_state.md R36, with what supports it, is kept by every step, from every state that
meets it. -/
def Obligations.StepKeepsInvariant : Prop := ∀ s t : State, BlockInv s → step s = .next t → BlockInv t

/-- Reset meets the invariant, for every legal capacity (10_state.md R36, R37); that the capacity stands in the state
is the model's choice of log 2. -/
def Obligations.ResetMeetsInvariant : Prop :=
  ∀ c : Config, c.wellFormed → BlockInv { State.reset with cfg := c }

/-- From every state that meets the invariant a step completes: no event stores outside a buffer
(20_memory.md R46) and the block never stops by itself (70_reset_and_hazards.md R187). -/
def Obligations.StepNeverStops : Prop := ∀ s : State, BlockInv s → ∃ t, step s = .next t

/-- Where an event stops: only a store to a cell that does not exist, from a pointer no run reaches (20_memory.md R40,
R46; the fault is the model's, log 5). -/
def Obligations.ExecStopsOnlyOutsideBuffers : Prop :=
  (∀ (b : Byte) (s : State), s.st = .recv → s.wptr.toNat > s.cfg.bufCap →
    exec (.rxByte b) s = .fault (.noSuchCell .buf s.wptr.toNat)) ∧
  (∀ s : State, s.txrdy = false → s.txerr = false → s.txlen.toNat + 3 > s.cfg.bufCap →
    exec .txEnd s = .fault (.noSuchCell .txbuf (max s.txlen.toNat s.cfg.bufCap))) ∧
  (∀ (i : Instr) (s : State), (∀ t, exec i s ≠ .next t) →
    (∃ b, i = .rxByte b ∧ s.st = .recv ∧ s.wptr.toNat > s.cfg.bufCap) ∨
    (i = .txEnd ∧ s.txrdy = false ∧ s.txerr = false ∧ s.txlen.toNat + 3 > s.cfg.bufCap))

/-- Each register is written only by the events listed for it (10_state.md R11), `RDATA` only by RST and RD. -/
def Obligations.OnlyListedEventsWriteRegisters : Prop :=
  ∀ (i : Instr) (s t : State), exec i s = .next t →
    (∀ r : Reg, mayWrite r i = false → readReg r t = readReg r s) ∧
    (i ≠ .rst → (∀ a, i ≠ .rd a) → t.rdata = s.rdata)

/-- `BUF` is written only by RX_BYTE, `TXBUF` only by TX_PUT and TX_END (20_memory.md R45): every other event leaves
every cell as it was. -/
def Obligations.BuffersHaveOneWriter : Prop :=
  ∀ (i : Instr) (s t : State), exec i s = .next t →
    ((∀ b, i ≠ .rxByte b) → ∀ j, t.cell .buf j = s.cell .buf j) ∧
    ((∀ b, i ≠ .txPut b) → i ≠ .txEnd → ∀ j, t.cell .txbuf j = s.cell .txbuf j)

/-- `ILL` and `SEQ` are sticky: only RST clears them, and no legal event sets `ILL` (10_state.md R29, R30). -/
def Obligations.StickyFlagsStay : Prop :=
  ∀ (i : Instr) (s t : State), i ≠ .rst → exec i s = .next t →
    t.ill = s.ill ∧ (s.seq = true → t.seq = true)

/-- The sequence errors are exactly the listed ones, and `SEQ <- 1` is their only effect
(60_exceptions.md R158). -/
def Obligations.SequenceErrorsAreTheListed : Prop :=
  ∀ (i : Instr) (s : State),
    (sequenceError i s = true → exec i s = .next { s with seq := true }) ∧
    (∀ t, sequenceError i s = false → i ≠ .rst → exec i s = .next t → t.seq = s.seq)

/-- The transitions of `ST` (42_rx_framer.md R120): a pair of state and event not in the table leaves `ST`. -/
def Obligations.StFollowsTransitionTable : Prop :=
  ∀ (i : Instr) (s t : State), exec i s = .next t → t.st ≠ s.st →
    (i = .rst ∧ t.st = .idle ∧ t.err = none) ∨
    (i = .rxStart 0 ∧ s.st ≠ .recv ∧ t.st = .recv ∧ t.err = none) ∨
    (i = .rxStart 1 ∧ s.st ≠ .recv ∧ 4 ≤ s.explen.toNat ∧ s.explen.toNat ≤ s.cfg.bufCap ∧
      t.st = .recv ∧ t.err = none) ∨
    (∃ b, i = .rxByte b ∧ s.st = .recv ∧ terminates b s ∧
      ((t.st = .done ∧ t.err = none) ∨
        (t.st = .fail ∧ (t.err = some .malformedFrame ∨ t.err = some .checksumFailure)))) ∨
    (i = .tick ∧ s.st = .recv ∧ min (s.tmr.toNat + 1) 0xFFFF ≥ s.tlimit.toNat ∧
      t.st = .fail ∧ t.err = some .readTimeout)

/-- The parameter `BUF_CAP` is no state: no step changes it (10_state.md R38); that it stands in `State` is the
model's choice of log 2. -/
def Obligations.ParameterNeverChanges : Prop := ∀ s t : State, step s = .next t → t.cfg = s.cfg

/-! ### Frames on the wire, pseudo-instructions -/

/-- The two wire formats index by index (30_encoding.md R60, R61). -/
def Obligations.WireFormats : Prop :=
  (∀ c : List Byte, (outboundFrame c).length = c.length + 3 ∧ (outboundFrame c).take c.length = c ∧
    (outboundFrame c)[c.length]? = some (highByte (crc16 c)) ∧
    (outboundFrame c)[c.length + 1]? = some (lowByte (crc16 c)) ∧ (outboundFrame c)[c.length + 2]? = some 0x0D) ∧
  (∀ p : List Byte, (inboundFrame p).length = p.length + 4 ∧ (inboundFrame p).take (p.length + 1) = 0x28 :: p ∧
    (inboundFrame p)[p.length + 1]? = some (highByte (crc16 (0x28 :: p))) ∧
    (inboundFrame p)[p.length + 2]? = some (lowByte (crc16 (0x28 :: p))) ∧
    (inboundFrame p)[p.length + 3]? = some 0x0D)

/-- The expansions of the pseudo-instructions (30_encoding.md R70). -/
def Obligations.PseudoExpansions : Prop :=
  (∀ s, expandPseudo (.crc16 s) = [.crcClr] ++ s.map .crcByte ++ [.crcFin]) ∧
  (∀ s, expandPseudo (.send s) = [.txClr] ++ s.map .txPut ++ [.txEnd]) ∧
  (∀ bytes, expandPseudo (.feed bytes) = bytes.map .rxByte) ∧
  (∀ n, expandPseudo (.wait n) = List.replicate n .tick) ∧
  (∀ t, expandPseudo (.recvScan t) = [.setTlimit t, .rxStart 0]) ∧
  (∀ t n, expandPseudo (.recvFixed t n) = [.setTlimit t, .setExplen n, .rxStart 1])

/-- The check is weaker than a plain CRC: two covered sequences of one length, with their start markers, that differ
in one byte can carry the same pair (43_validator.md R136 (b), R138). -/
def Obligations.OneChangedByteCanPass : Prop :=
  ∃ (a c : List Byte) (x y : Byte), x ≠ y ∧
    crc16Raw (0x28 :: a ++ x :: c) ≠ crc16Raw (0x28 :: a ++ y :: c) ∧
    crc16 (0x28 :: a ++ x :: c) = crc16 (0x28 :: a ++ y :: c)
end

