-- ==== Sys2Proof/Laws/State.lean ====
section
/-!
SUPPORT. What every named update of the state leaves in every field, one lemma per field per update, each true by rfl.
-/

namespace Sys2Proof.Machine

/-! ### raiseRx -/

@[simp] theorem raiseRx_cfg (e : RxError) (s : State) : (raiseRx e s).cfg = s.cfg := rfl
@[simp] theorem raiseRx_st (e : RxError) (s : State) : (raiseRx e s).st = .fail := rfl
@[simp] theorem raiseRx_err (e : RxError) (s : State) : (raiseRx e s).err = some e := rfl
@[simp] theorem raiseRx_mode (e : RxError) (s : State) : (raiseRx e s).mode = s.mode := rfl
@[simp] theorem raiseRx_txrdy (e : RxError) (s : State) : (raiseRx e s).txrdy = s.txrdy := rfl
@[simp] theorem raiseRx_txerr (e : RxError) (s : State) : (raiseRx e s).txerr = s.txerr := rfl
@[simp] theorem raiseRx_ill (e : RxError) (s : State) : (raiseRx e s).ill = s.ill := rfl
@[simp] theorem raiseRx_seq (e : RxError) (s : State) : (raiseRx e s).seq = s.seq := rfl
@[simp] theorem raiseRx_acc (e : RxError) (s : State) : (raiseRx e s).acc = s.acc := rfl
@[simp] theorem raiseRx_crcout (e : RxError) (s : State) : (raiseRx e s).crcout = s.crcout := rfl
@[simp] theorem raiseRx_wptr (e : RxError) (s : State) : (raiseRx e s).wptr = s.wptr := rfl
@[simp] theorem raiseRx_flen (e : RxError) (s : State) : (raiseRx e s).flen = s.flen := rfl
@[simp] theorem raiseRx_paylen (e : RxError) (s : State) : (raiseRx e s).paylen = s.paylen := rfl
@[simp] theorem raiseRx_tmr (e : RxError) (s : State) : (raiseRx e s).tmr = s.tmr := rfl
@[simp] theorem raiseRx_tlimit (e : RxError) (s : State) : (raiseRx e s).tlimit = s.tlimit := rfl
@[simp] theorem raiseRx_explen (e : RxError) (s : State) : (raiseRx e s).explen = s.explen := rfl
@[simp] theorem raiseRx_txlen (e : RxError) (s : State) : (raiseRx e s).txlen = s.txlen := rfl
@[simp] theorem raiseRx_rdata (e : RxError) (s : State) : (raiseRx e s).rdata = s.rdata := rfl
@[simp] theorem raiseRx_buf (e : RxError) (s : State) : (raiseRx e s).buf = s.buf := rfl
@[simp] theorem raiseRx_txbuf (e : RxError) (s : State) : (raiseRx e s).txbuf = s.txbuf := rfl
@[simp] theorem raiseRx_inputs (e : RxError) (s : State) : (raiseRx e s).inputs = s.inputs := rfl
@[simp] theorem raiseRx_draws (e : RxError) (s : State) : (raiseRx e s).draws = s.draws := rfl

/-! ### raiseInvalidCommand -/

@[simp] theorem raiseInvalidCommand_cfg (s : State) : (raiseInvalidCommand s).cfg = s.cfg := rfl
@[simp] theorem raiseInvalidCommand_st (s : State) : (raiseInvalidCommand s).st = s.st := rfl
@[simp] theorem raiseInvalidCommand_err (s : State) : (raiseInvalidCommand s).err = s.err := rfl
@[simp] theorem raiseInvalidCommand_mode (s : State) : (raiseInvalidCommand s).mode = s.mode := rfl
@[simp] theorem raiseInvalidCommand_txrdy (s : State) : (raiseInvalidCommand s).txrdy = s.txrdy := rfl
@[simp] theorem raiseInvalidCommand_txerr (s : State) : (raiseInvalidCommand s).txerr = true := rfl
@[simp] theorem raiseInvalidCommand_ill (s : State) : (raiseInvalidCommand s).ill = s.ill := rfl
@[simp] theorem raiseInvalidCommand_seq (s : State) : (raiseInvalidCommand s).seq = s.seq := rfl
@[simp] theorem raiseInvalidCommand_acc (s : State) : (raiseInvalidCommand s).acc = s.acc := rfl
@[simp] theorem raiseInvalidCommand_crcout (s : State) : (raiseInvalidCommand s).crcout = s.crcout := rfl
@[simp] theorem raiseInvalidCommand_wptr (s : State) : (raiseInvalidCommand s).wptr = s.wptr := rfl
@[simp] theorem raiseInvalidCommand_flen (s : State) : (raiseInvalidCommand s).flen = s.flen := rfl
@[simp] theorem raiseInvalidCommand_paylen (s : State) : (raiseInvalidCommand s).paylen = s.paylen := rfl
@[simp] theorem raiseInvalidCommand_tmr (s : State) : (raiseInvalidCommand s).tmr = s.tmr := rfl
@[simp] theorem raiseInvalidCommand_tlimit (s : State) : (raiseInvalidCommand s).tlimit = s.tlimit := rfl
@[simp] theorem raiseInvalidCommand_explen (s : State) : (raiseInvalidCommand s).explen = s.explen := rfl
@[simp] theorem raiseInvalidCommand_txlen (s : State) : (raiseInvalidCommand s).txlen = s.txlen := rfl
@[simp] theorem raiseInvalidCommand_rdata (s : State) : (raiseInvalidCommand s).rdata = s.rdata := rfl
@[simp] theorem raiseInvalidCommand_buf (s : State) : (raiseInvalidCommand s).buf = s.buf := rfl
@[simp] theorem raiseInvalidCommand_txbuf (s : State) : (raiseInvalidCommand s).txbuf = s.txbuf := rfl
@[simp] theorem raiseInvalidCommand_inputs (s : State) : (raiseInvalidCommand s).inputs = s.inputs := rfl
@[simp] theorem raiseInvalidCommand_draws (s : State) : (raiseInvalidCommand s).draws = s.draws := rfl

/-! ### refuseEvent -/

@[simp] theorem refuseEvent_cfg (s : State) : (refuseEvent s).cfg = s.cfg := rfl
@[simp] theorem refuseEvent_st (s : State) : (refuseEvent s).st = s.st := rfl
@[simp] theorem refuseEvent_err (s : State) : (refuseEvent s).err = s.err := rfl
@[simp] theorem refuseEvent_mode (s : State) : (refuseEvent s).mode = s.mode := rfl
@[simp] theorem refuseEvent_txrdy (s : State) : (refuseEvent s).txrdy = s.txrdy := rfl
@[simp] theorem refuseEvent_txerr (s : State) : (refuseEvent s).txerr = s.txerr := rfl
@[simp] theorem refuseEvent_ill (s : State) : (refuseEvent s).ill = s.ill := rfl
@[simp] theorem refuseEvent_seq (s : State) : (refuseEvent s).seq = true := rfl
@[simp] theorem refuseEvent_acc (s : State) : (refuseEvent s).acc = s.acc := rfl
@[simp] theorem refuseEvent_crcout (s : State) : (refuseEvent s).crcout = s.crcout := rfl
@[simp] theorem refuseEvent_wptr (s : State) : (refuseEvent s).wptr = s.wptr := rfl
@[simp] theorem refuseEvent_flen (s : State) : (refuseEvent s).flen = s.flen := rfl
@[simp] theorem refuseEvent_paylen (s : State) : (refuseEvent s).paylen = s.paylen := rfl
@[simp] theorem refuseEvent_tmr (s : State) : (refuseEvent s).tmr = s.tmr := rfl
@[simp] theorem refuseEvent_tlimit (s : State) : (refuseEvent s).tlimit = s.tlimit := rfl
@[simp] theorem refuseEvent_explen (s : State) : (refuseEvent s).explen = s.explen := rfl
@[simp] theorem refuseEvent_txlen (s : State) : (refuseEvent s).txlen = s.txlen := rfl
@[simp] theorem refuseEvent_rdata (s : State) : (refuseEvent s).rdata = s.rdata := rfl
@[simp] theorem refuseEvent_buf (s : State) : (refuseEvent s).buf = s.buf := rfl
@[simp] theorem refuseEvent_txbuf (s : State) : (refuseEvent s).txbuf = s.txbuf := rfl
@[simp] theorem refuseEvent_inputs (s : State) : (refuseEvent s).inputs = s.inputs := rfl
@[simp] theorem refuseEvent_draws (s : State) : (refuseEvent s).draws = s.draws := rfl

/-! ### illegalWord -/

@[simp] theorem illegalWord_cfg (s : State) : (illegalWord s).cfg = s.cfg := rfl
@[simp] theorem illegalWord_st (s : State) : (illegalWord s).st = s.st := rfl
@[simp] theorem illegalWord_err (s : State) : (illegalWord s).err = s.err := rfl
@[simp] theorem illegalWord_mode (s : State) : (illegalWord s).mode = s.mode := rfl
@[simp] theorem illegalWord_txrdy (s : State) : (illegalWord s).txrdy = s.txrdy := rfl
@[simp] theorem illegalWord_txerr (s : State) : (illegalWord s).txerr = s.txerr := rfl
@[simp] theorem illegalWord_ill (s : State) : (illegalWord s).ill = true := rfl
@[simp] theorem illegalWord_seq (s : State) : (illegalWord s).seq = s.seq := rfl
@[simp] theorem illegalWord_acc (s : State) : (illegalWord s).acc = s.acc := rfl
@[simp] theorem illegalWord_crcout (s : State) : (illegalWord s).crcout = s.crcout := rfl
@[simp] theorem illegalWord_wptr (s : State) : (illegalWord s).wptr = s.wptr := rfl
@[simp] theorem illegalWord_flen (s : State) : (illegalWord s).flen = s.flen := rfl
@[simp] theorem illegalWord_paylen (s : State) : (illegalWord s).paylen = s.paylen := rfl
@[simp] theorem illegalWord_tmr (s : State) : (illegalWord s).tmr = s.tmr := rfl
@[simp] theorem illegalWord_tlimit (s : State) : (illegalWord s).tlimit = s.tlimit := rfl
@[simp] theorem illegalWord_explen (s : State) : (illegalWord s).explen = s.explen := rfl
@[simp] theorem illegalWord_txlen (s : State) : (illegalWord s).txlen = s.txlen := rfl
@[simp] theorem illegalWord_rdata (s : State) : (illegalWord s).rdata = s.rdata := rfl
@[simp] theorem illegalWord_buf (s : State) : (illegalWord s).buf = s.buf := rfl
@[simp] theorem illegalWord_txbuf (s : State) : (illegalWord s).txbuf = s.txbuf := rfl
@[simp] theorem illegalWord_inputs (s : State) : (illegalWord s).inputs = s.inputs := rfl
@[simp] theorem illegalWord_draws (s : State) : (illegalWord s).draws = s.draws := rfl

/-! ### openReceive -/

@[simp] theorem openReceive_cfg (m : BitVec 1) (s : State) : (openReceive m s).cfg = s.cfg := rfl
@[simp] theorem openReceive_st (m : BitVec 1) (s : State) : (openReceive m s).st = .recv := rfl
@[simp] theorem openReceive_err (m : BitVec 1) (s : State) : (openReceive m s).err = none := rfl
@[simp] theorem openReceive_mode (m : BitVec 1) (s : State) : (openReceive m s).mode = strategyOf m := rfl
@[simp] theorem openReceive_txrdy (m : BitVec 1) (s : State) : (openReceive m s).txrdy = s.txrdy := rfl
@[simp] theorem openReceive_txerr (m : BitVec 1) (s : State) : (openReceive m s).txerr = s.txerr := rfl
@[simp] theorem openReceive_ill (m : BitVec 1) (s : State) : (openReceive m s).ill = s.ill := rfl
@[simp] theorem openReceive_seq (m : BitVec 1) (s : State) : (openReceive m s).seq = s.seq := rfl
@[simp] theorem openReceive_acc (m : BitVec 1) (s : State) : (openReceive m s).acc = s.acc := rfl
@[simp] theorem openReceive_crcout (m : BitVec 1) (s : State) : (openReceive m s).crcout = s.crcout := rfl
@[simp] theorem openReceive_wptr (m : BitVec 1) (s : State) : (openReceive m s).wptr = 0 := rfl
@[simp] theorem openReceive_flen (m : BitVec 1) (s : State) : (openReceive m s).flen = 0 := rfl
@[simp] theorem openReceive_paylen (m : BitVec 1) (s : State) : (openReceive m s).paylen = 0 := rfl
@[simp] theorem openReceive_tmr (m : BitVec 1) (s : State) : (openReceive m s).tmr = 0 := rfl
@[simp] theorem openReceive_tlimit (m : BitVec 1) (s : State) : (openReceive m s).tlimit = s.tlimit := rfl
@[simp] theorem openReceive_explen (m : BitVec 1) (s : State) : (openReceive m s).explen = s.explen := rfl
@[simp] theorem openReceive_txlen (m : BitVec 1) (s : State) : (openReceive m s).txlen = s.txlen := rfl
@[simp] theorem openReceive_rdata (m : BitVec 1) (s : State) : (openReceive m s).rdata = s.rdata := rfl
@[simp] theorem openReceive_buf (m : BitVec 1) (s : State) : (openReceive m s).buf = s.buf := rfl
@[simp] theorem openReceive_txbuf (m : BitVec 1) (s : State) : (openReceive m s).txbuf = s.txbuf := rfl
@[simp] theorem openReceive_inputs (m : BitVec 1) (s : State) : (openReceive m s).inputs = s.inputs := rfl
@[simp] theorem openReceive_draws (m : BitVec 1) (s : State) : (openReceive m s).draws = s.draws := rfl

/-! ### resetRegisters -/

@[simp] theorem resetRegisters_cfg (s : State) : (resetRegisters s).cfg = s.cfg := rfl
@[simp] theorem resetRegisters_st (s : State) : (resetRegisters s).st = .idle := rfl
@[simp] theorem resetRegisters_err (s : State) : (resetRegisters s).err = none := rfl
@[simp] theorem resetRegisters_mode (s : State) : (resetRegisters s).mode = .scan := rfl
@[simp] theorem resetRegisters_txrdy (s : State) : (resetRegisters s).txrdy = false := rfl
@[simp] theorem resetRegisters_txerr (s : State) : (resetRegisters s).txerr = false := rfl
@[simp] theorem resetRegisters_ill (s : State) : (resetRegisters s).ill = false := rfl
@[simp] theorem resetRegisters_seq (s : State) : (resetRegisters s).seq = false := rfl
@[simp] theorem resetRegisters_acc (s : State) : (resetRegisters s).acc = 0 := rfl
@[simp] theorem resetRegisters_crcout (s : State) : (resetRegisters s).crcout = 0 := rfl
@[simp] theorem resetRegisters_wptr (s : State) : (resetRegisters s).wptr = 0 := rfl
@[simp] theorem resetRegisters_flen (s : State) : (resetRegisters s).flen = 0 := rfl
@[simp] theorem resetRegisters_paylen (s : State) : (resetRegisters s).paylen = 0 := rfl
@[simp] theorem resetRegisters_tmr (s : State) : (resetRegisters s).tmr = 0 := rfl
@[simp] theorem resetRegisters_tlimit (s : State) : (resetRegisters s).tlimit = 0 := rfl
@[simp] theorem resetRegisters_explen (s : State) : (resetRegisters s).explen = 0 := rfl
@[simp] theorem resetRegisters_txlen (s : State) : (resetRegisters s).txlen = 0 := rfl
@[simp] theorem resetRegisters_rdata (s : State) : (resetRegisters s).rdata = 0 := rfl
@[simp] theorem resetRegisters_buf (s : State) : (resetRegisters s).buf = s.buf := rfl
@[simp] theorem resetRegisters_txbuf (s : State) : (resetRegisters s).txbuf = s.txbuf := rfl
@[simp] theorem resetRegisters_inputs (s : State) : (resetRegisters s).inputs = s.inputs := rfl
@[simp] theorem resetRegisters_draws (s : State) : (resetRegisters s).draws = s.draws := rfl

/-! ### advance -/

@[simp] theorem advance_cfg (rest : List Input) (d : Nat) (s : State) : (advance rest d s).cfg = s.cfg := rfl
@[simp] theorem advance_st (rest : List Input) (d : Nat) (s : State) : (advance rest d s).st = s.st := rfl
@[simp] theorem advance_err (rest : List Input) (d : Nat) (s : State) : (advance rest d s).err = s.err := rfl
@[simp] theorem advance_mode (rest : List Input) (d : Nat) (s : State) : (advance rest d s).mode = s.mode := rfl
@[simp] theorem advance_txrdy (rest : List Input) (d : Nat) (s : State) : (advance rest d s).txrdy = s.txrdy := rfl
@[simp] theorem advance_txerr (rest : List Input) (d : Nat) (s : State) : (advance rest d s).txerr = s.txerr := rfl
@[simp] theorem advance_ill (rest : List Input) (d : Nat) (s : State) : (advance rest d s).ill = s.ill := rfl
@[simp] theorem advance_seq (rest : List Input) (d : Nat) (s : State) : (advance rest d s).seq = s.seq := rfl
@[simp] theorem advance_acc (rest : List Input) (d : Nat) (s : State) : (advance rest d s).acc = s.acc := rfl
@[simp] theorem advance_crcout (rest : List Input) (d : Nat) (s : State) : (advance rest d s).crcout = s.crcout := rfl
@[simp] theorem advance_wptr (rest : List Input) (d : Nat) (s : State) : (advance rest d s).wptr = s.wptr := rfl
@[simp] theorem advance_flen (rest : List Input) (d : Nat) (s : State) : (advance rest d s).flen = s.flen := rfl
@[simp] theorem advance_paylen (rest : List Input) (d : Nat) (s : State) : (advance rest d s).paylen = s.paylen := rfl
@[simp] theorem advance_tmr (rest : List Input) (d : Nat) (s : State) : (advance rest d s).tmr = s.tmr := rfl
@[simp] theorem advance_tlimit (rest : List Input) (d : Nat) (s : State) : (advance rest d s).tlimit = s.tlimit := rfl
@[simp] theorem advance_explen (rest : List Input) (d : Nat) (s : State) : (advance rest d s).explen = s.explen := rfl
@[simp] theorem advance_txlen (rest : List Input) (d : Nat) (s : State) : (advance rest d s).txlen = s.txlen := rfl
@[simp] theorem advance_rdata (rest : List Input) (d : Nat) (s : State) : (advance rest d s).rdata = s.rdata := rfl
@[simp] theorem advance_buf (rest : List Input) (d : Nat) (s : State) : (advance rest d s).buf = s.buf := rfl
@[simp] theorem advance_txbuf (rest : List Input) (d : Nat) (s : State) : (advance rest d s).txbuf = s.txbuf := rfl
@[simp] theorem advance_inputs (rest : List Input) (d : Nat) (s : State) : (advance rest d s).inputs = rest := rfl
@[simp] theorem advance_draws (rest : List Input) (d : Nat) (s : State) : (advance rest d s).draws = d := rfl

/-! ### consume -/

@[simp] theorem consume_cfg (i : Instr) (rest : List Input) (s : State) : (consume i rest s).cfg = s.cfg := rfl
@[simp] theorem consume_st (i : Instr) (rest : List Input) (s : State) : (consume i rest s).st = s.st := rfl
@[simp] theorem consume_err (i : Instr) (rest : List Input) (s : State) : (consume i rest s).err = s.err := rfl
@[simp] theorem consume_mode (i : Instr) (rest : List Input) (s : State) : (consume i rest s).mode = s.mode := rfl
@[simp] theorem consume_txrdy (i : Instr) (rest : List Input) (s : State) : (consume i rest s).txrdy = s.txrdy := rfl
@[simp] theorem consume_txerr (i : Instr) (rest : List Input) (s : State) : (consume i rest s).txerr = s.txerr := rfl
@[simp] theorem consume_ill (i : Instr) (rest : List Input) (s : State) : (consume i rest s).ill = s.ill := rfl
@[simp] theorem consume_seq (i : Instr) (rest : List Input) (s : State) : (consume i rest s).seq = s.seq := rfl
@[simp] theorem consume_acc (i : Instr) (rest : List Input) (s : State) : (consume i rest s).acc = s.acc := rfl
@[simp] theorem consume_crcout (i : Instr) (rest : List Input) (s : State) : (consume i rest s).crcout = s.crcout := rfl
@[simp] theorem consume_wptr (i : Instr) (rest : List Input) (s : State) : (consume i rest s).wptr = s.wptr := rfl
@[simp] theorem consume_flen (i : Instr) (rest : List Input) (s : State) : (consume i rest s).flen = s.flen := rfl
@[simp] theorem consume_paylen (i : Instr) (rest : List Input) (s : State) : (consume i rest s).paylen = s.paylen := rfl
@[simp] theorem consume_tmr (i : Instr) (rest : List Input) (s : State) : (consume i rest s).tmr = s.tmr := rfl
@[simp] theorem consume_tlimit (i : Instr) (rest : List Input) (s : State) : (consume i rest s).tlimit = s.tlimit := rfl
@[simp] theorem consume_explen (i : Instr) (rest : List Input) (s : State) : (consume i rest s).explen = s.explen := rfl
@[simp] theorem consume_txlen (i : Instr) (rest : List Input) (s : State) : (consume i rest s).txlen = s.txlen := rfl
@[simp] theorem consume_rdata (i : Instr) (rest : List Input) (s : State) : (consume i rest s).rdata = s.rdata := rfl
@[simp] theorem consume_buf (i : Instr) (rest : List Input) (s : State) : (consume i rest s).buf = s.buf := rfl
@[simp] theorem consume_txbuf (i : Instr) (rest : List Input) (s : State) : (consume i rest s).txbuf = s.txbuf := rfl
@[simp] theorem consume_inputs (i : Instr) (rest : List Input) (s : State) : (consume i rest s).inputs = rest := rfl
@[simp] theorem consume_draws (i : Instr) (rest : List Input) (s : State) : (consume i rest s).draws = drawsAfter i s.draws := rfl

/-! ### presentWord -/

@[simp] theorem presentWord_cfg (w : EventWord) (s : State) : (presentWord w s).cfg = s.cfg := rfl
@[simp] theorem presentWord_st (w : EventWord) (s : State) : (presentWord w s).st = s.st := rfl
@[simp] theorem presentWord_err (w : EventWord) (s : State) : (presentWord w s).err = s.err := rfl
@[simp] theorem presentWord_mode (w : EventWord) (s : State) : (presentWord w s).mode = s.mode := rfl
@[simp] theorem presentWord_txrdy (w : EventWord) (s : State) : (presentWord w s).txrdy = s.txrdy := rfl
@[simp] theorem presentWord_txerr (w : EventWord) (s : State) : (presentWord w s).txerr = s.txerr := rfl
@[simp] theorem presentWord_ill (w : EventWord) (s : State) : (presentWord w s).ill = s.ill := rfl
@[simp] theorem presentWord_seq (w : EventWord) (s : State) : (presentWord w s).seq = s.seq := rfl
@[simp] theorem presentWord_acc (w : EventWord) (s : State) : (presentWord w s).acc = s.acc := rfl
@[simp] theorem presentWord_crcout (w : EventWord) (s : State) : (presentWord w s).crcout = s.crcout := rfl
@[simp] theorem presentWord_wptr (w : EventWord) (s : State) : (presentWord w s).wptr = s.wptr := rfl
@[simp] theorem presentWord_flen (w : EventWord) (s : State) : (presentWord w s).flen = s.flen := rfl
@[simp] theorem presentWord_paylen (w : EventWord) (s : State) : (presentWord w s).paylen = s.paylen := rfl
@[simp] theorem presentWord_tmr (w : EventWord) (s : State) : (presentWord w s).tmr = s.tmr := rfl
@[simp] theorem presentWord_tlimit (w : EventWord) (s : State) : (presentWord w s).tlimit = s.tlimit := rfl
@[simp] theorem presentWord_explen (w : EventWord) (s : State) : (presentWord w s).explen = s.explen := rfl
@[simp] theorem presentWord_txlen (w : EventWord) (s : State) : (presentWord w s).txlen = s.txlen := rfl
@[simp] theorem presentWord_rdata (w : EventWord) (s : State) : (presentWord w s).rdata = s.rdata := rfl
@[simp] theorem presentWord_buf (w : EventWord) (s : State) : (presentWord w s).buf = s.buf := rfl
@[simp] theorem presentWord_txbuf (w : EventWord) (s : State) : (presentWord w s).txbuf = s.txbuf := rfl
@[simp] theorem presentWord_inputs (w : EventWord) (s : State) : (presentWord w s).inputs = .cycle ⟨some w, none, false⟩ :: s.inputs := rfl
@[simp] theorem presentWord_draws (w : EventWord) (s : State) : (presentWord w s).draws = s.draws := rfl

/-! ### setCells -/

@[simp] theorem setCells_cfg (b : Buffer) (m : Memory) (s : State) : (s.setCells b m).cfg = s.cfg := by cases b <;> rfl
@[simp] theorem setCells_st (b : Buffer) (m : Memory) (s : State) : (s.setCells b m).st = s.st := by cases b <;> rfl
@[simp] theorem setCells_err (b : Buffer) (m : Memory) (s : State) : (s.setCells b m).err = s.err := by cases b <;> rfl
@[simp] theorem setCells_mode (b : Buffer) (m : Memory) (s : State) : (s.setCells b m).mode = s.mode := by cases b <;> rfl
@[simp] theorem setCells_txrdy (b : Buffer) (m : Memory) (s : State) : (s.setCells b m).txrdy = s.txrdy := by cases b <;> rfl
@[simp] theorem setCells_txerr (b : Buffer) (m : Memory) (s : State) : (s.setCells b m).txerr = s.txerr := by cases b <;> rfl
@[simp] theorem setCells_ill (b : Buffer) (m : Memory) (s : State) : (s.setCells b m).ill = s.ill := by cases b <;> rfl
@[simp] theorem setCells_seq (b : Buffer) (m : Memory) (s : State) : (s.setCells b m).seq = s.seq := by cases b <;> rfl
@[simp] theorem setCells_acc (b : Buffer) (m : Memory) (s : State) : (s.setCells b m).acc = s.acc := by cases b <;> rfl
@[simp] theorem setCells_crcout (b : Buffer) (m : Memory) (s : State) : (s.setCells b m).crcout = s.crcout := by cases b <;> rfl
@[simp] theorem setCells_wptr (b : Buffer) (m : Memory) (s : State) : (s.setCells b m).wptr = s.wptr := by cases b <;> rfl
@[simp] theorem setCells_flen (b : Buffer) (m : Memory) (s : State) : (s.setCells b m).flen = s.flen := by cases b <;> rfl
@[simp] theorem setCells_paylen (b : Buffer) (m : Memory) (s : State) : (s.setCells b m).paylen = s.paylen := by cases b <;> rfl
@[simp] theorem setCells_tmr (b : Buffer) (m : Memory) (s : State) : (s.setCells b m).tmr = s.tmr := by cases b <;> rfl
@[simp] theorem setCells_tlimit (b : Buffer) (m : Memory) (s : State) : (s.setCells b m).tlimit = s.tlimit := by cases b <;> rfl
@[simp] theorem setCells_explen (b : Buffer) (m : Memory) (s : State) : (s.setCells b m).explen = s.explen := by cases b <;> rfl
@[simp] theorem setCells_txlen (b : Buffer) (m : Memory) (s : State) : (s.setCells b m).txlen = s.txlen := by cases b <;> rfl
@[simp] theorem setCells_rdata (b : Buffer) (m : Memory) (s : State) : (s.setCells b m).rdata = s.rdata := by cases b <;> rfl
@[simp] theorem setCells_inputs (b : Buffer) (m : Memory) (s : State) : (s.setCells b m).inputs = s.inputs := by cases b <;> rfl
@[simp] theorem setCells_draws (b : Buffer) (m : Memory) (s : State) : (s.setCells b m).draws = s.draws := by cases b <;> rfl

@[simp] theorem setCells_buf_buf (m : Memory) (s : State) : (s.setCells .buf m).buf = m := rfl
@[simp] theorem setCells_buf_txbuf (m : Memory) (s : State) : (s.setCells .buf m).txbuf = s.txbuf := rfl
@[simp] theorem setCells_txbuf_buf (m : Memory) (s : State) : (s.setCells .txbuf m).buf = s.buf := rfl
@[simp] theorem setCells_txbuf_txbuf (m : Memory) (s : State) : (s.setCells .txbuf m).txbuf = m := rfl

end Sys2Proof.Machine
end

