-- ==== Sys2Proof/Laws/Memory.lean ====
section
/-!
SUPPORT. The laws of the buffers: a read after a write, the canonical form, and what a cell access of the state does.
-/

namespace Sys2Proof.Machine

@[simp] theorem memory_get_nil (i : Nat) : Memory.get [] i = none := rfl

/-- A read after a write gives the value written at its index and what was there before elsewhere. -/
theorem memory_get_set (m : Memory) (i j : Nat) (v : Byte) :
    Memory.get (Memory.set m i v) j = if j = i then some v else Memory.get m j := by
  induction m with
  | nil => simp [Memory.set, Memory.get]
  | cons c m ih =>
    obtain ⟨a, x⟩ := c
    simp only [Memory.set]
    split
    · simp [Memory.get]
    · split
      · next h => subst h; by_cases hj : j = i <;> simp [Memory.get, hj]
      · next h => by_cases hj : j = a <;> simp [Memory.get, hj, ih, Ne.symm h]

/-- The tail of a canonical buffer is canonical. -/
theorem memory_wf_tail (c : Host.Cell) (m : Memory) (h : Memory.wf (c :: m) = true) : Memory.wf m = true := by
  cases m with
  | nil => rfl
  | cons d m => simp only [Memory.wf, Bool.and_eq_true] at h; exact h.2

/-- Writing a cell above the first keeps the first cell of the buffer below the rest. -/
theorem memory_wf_cons_set (a : Nat) (x : Byte) (m : Memory) (i : Nat) (v : Byte) (hai : a < i)
    (h : Memory.wf ((a, x) :: m) = true) (ht : Memory.wf (Memory.set m i v) = true) :
    Memory.wf ((a, x) :: Memory.set m i v) = true := by
  cases m with
  | nil => simp [Memory.set, Memory.wf, hai]
  | cons d m =>
    obtain ⟨b, y⟩ := d
    simp only [Memory.wf, Bool.and_eq_true, decide_eq_true_eq] at h
    simp only [Memory.set] at ht ⊢
    split
    · next hib => simp_all [Memory.wf]
    · split
      · next hib heq => simp_all [Memory.wf]
      · next hib hne => simp_all [Memory.wf]

/-- A write keeps the canonical form. -/
theorem memory_wf_set (m : Memory) (i : Nat) (v : Byte) (h : Memory.wf m = true) :
    Memory.wf (Memory.set m i v) = true := by
  induction m with
  | nil => rfl
  | cons c m ih =>
    obtain ⟨a, x⟩ := c
    have hm := ih (memory_wf_tail _ _ h)
    by_cases h1 : i < a
    · simp only [Memory.set, h1, if_true, Memory.wf, decide_true, Bool.true_and]; exact h
    · by_cases h2 : i = a
      · subst h2
        simp only [Memory.set, Nat.lt_irrefl, if_true, if_false]
        cases m with
        | nil => rfl
        | cons d m => simpa [Memory.wf] using h
      · simp only [Memory.set, h1, h2, if_false]
        exact memory_wf_cons_set a x m i v (by omega) h hm

@[simp] theorem cells_buf (s : State) : s.cells .buf = s.buf := rfl
@[simp] theorem cells_txbuf (s : State) : s.cells .txbuf = s.txbuf := rfl

/-- The cells of a buffer after the cells of a buffer were replaced. -/
theorem cells_setCells (s : State) (b c : Buffer) (m : Memory) :
    (s.setCells b m).cells c = if c = b then m else s.cells c := by
  cases b <;> cases c <;> rfl

/-- A cell after one cell was written. -/
theorem cell_setCells_set (s : State) (b c : Buffer) (i j : Nat) (v : Byte) :
    (s.setCells b (Memory.set (s.cells b) i v)).cell c j = if c = b ∧ j = i then some v else s.cell c j := by
  unfold State.cell
  rw [cells_setCells]
  by_cases h : c = b
  · subst h; simp [memory_get_set]
  · simp [h]

/-- A cell depends on the two buffers alone. -/
theorem cell_congr (s t : State) (b : Buffer) (i : Nat) (h : s.cells b = t.cells b) : s.cell b i = t.cell b i := by
  unfold State.cell; rw [h]

/-- A byte read depends on the buffer and the draw alone. -/
theorem memRead_congr (s t : State) (b : Buffer) (i : Nat) (h : s.cell b i = t.cell b i) (hd : s.draws = t.draws) :
    memRead b i s = memRead b i t := by
  unfold memRead; rw [h, hd]

/-- A written cell reads as its value. -/
theorem memRead_of_cell (s : State) (b : Buffer) (i : Nat) (v : Byte) (h : s.cell b i = some v) :
    memRead b i s = v := by
  simp [memRead, h]

@[simp] theorem memReadFirst_length (b : Buffer) (n : Nat) (s : State) : (memReadFirst b n s).length = n := by
  simp [memReadFirst]

/-- The first `n + 1` bytes are the first `n` and the next. -/
theorem memReadFirst_succ (b : Buffer) (n : Nat) (s : State) :
    memReadFirst b (n + 1) s = memReadFirst b n s ++ [memRead b n s] := by
  simp [memReadFirst, List.range_succ]

/-- The first bytes depend on their reads alone. -/
theorem memReadFirst_congr (s t : State) (b : Buffer) (n : Nat)
    (h : ∀ i, i < n → memRead b i s = memRead b i t) : memReadFirst b n s = memReadFirst b n t := by
  unfold memReadFirst
  exact List.map_congr_left (fun i hi => h i (List.mem_range.mp hi))

end Sys2Proof.Machine
end

