-- ==== Sys2Proof/Laws/Ops.lean ====
section
/-!
SUPPORT. What each shared operation can do, said once.
-/

namespace Sys2Proof.Machine

@[simp] theorem andThen_next (s : State) (f : State → Result) : andThen (.next s) f = f s := rfl
@[simp] theorem andThen_fault (r : Fault) (f : State → Result) : andThen (.fault r) f = .fault r := rfl
@[simp] theorem andThen_refused (r : Refusal) (f : State → Result) : andThen (.refused r) f = .refused r := rfl

/-- A sequence ends in a next state only if both of its operations do. -/
theorem andThen_eq_next (o : Result) (f : State → Result) (t : State) :
    andThen o f = .next t ↔ ∃ s, o = .next s ∧ f s = .next t := by
  cases o <;> simp [andThen]

/-- A store inside the buffer completes. -/
theorem memWrite_next (b : Buffer) (i : Nat) (v : Byte) (s : State) (h : i < s.cfg.bufCap) :
    memWrite b i v s = .next (s.setCells b (Memory.set (s.cells b) i v)) := by
  simp [memWrite, h]

/-- A store that answers a next state is inside the buffer and writes one cell. -/
theorem memWrite_eq_next (b : Buffer) (i : Nat) (v : Byte) (s t : State) :
    memWrite b i v s = .next t ↔ i < s.cfg.bufCap ∧ t = s.setCells b (Memory.set (s.cells b) i v) := by
  unfold memWrite
  split <;> simp_all [eq_comm]

/-- A store of the receive path inside the buffer. -/
theorem storeRx_next (b : Byte) (s : State) (h : s.wptr.toNat < s.cfg.bufCap) :
    storeRx b s = .next { s with wptr := s.wptr + 1, buf := Memory.set s.buf s.wptr.toNat b } := by
  simp [storeRx, memWrite_next _ _ _ _ h, State.setCells]

/-- A store of the receive path that answers a next state. -/
theorem storeRx_eq_next (b : Byte) (s t : State) :
    storeRx b s = .next t ↔ s.wptr.toNat < s.cfg.bufCap ∧
      t = { s with wptr := s.wptr + 1, buf := Memory.set s.buf s.wptr.toNat b } := by
  by_cases h : s.wptr.toNat < s.cfg.bufCap
  · simp [storeRx_next b s h, h, eq_comm]
  · simp [storeRx, memWrite, h]

/-- A store of the encoder inside the buffer. -/
theorem storeTx_next (b : Byte) (s : State) (h : s.txlen.toNat < s.cfg.bufCap) :
    storeTx b s = .next { s with txlen := s.txlen + 1, txbuf := Memory.set s.txbuf s.txlen.toNat b } := by
  simp [storeTx, memWrite_next _ _ _ _ h, State.setCells]

/-- A store of the encoder that answers a next state. -/
theorem storeTx_eq_next (b : Byte) (s t : State) :
    storeTx b s = .next t ↔ s.txlen.toNat < s.cfg.bufCap ∧
      t = { s with txlen := s.txlen + 1, txbuf := Memory.set s.txbuf s.txlen.toNat b } := by
  by_cases h : s.txlen.toNat < s.cfg.bufCap
  · simp [storeTx_next b s h, h, eq_comm]
  · simp [storeTx, memWrite, h]

/-- The trailer of an outbound frame that fits. -/
theorem storeTxTrailer_next (b0 b1 b2 : Byte) (s : State) (h : s.txlen.toNat + 3 ≤ s.cfg.bufCap) :
    storeTxTrailer b0 b1 b2 s = .next { s with
      txlen := s.txlen + 3,
      txbuf := Memory.set (Memory.set (Memory.set s.txbuf s.txlen.toNat b0) (s.txlen.toNat + 1) b1)
        (s.txlen.toNat + 2) b2 } := by
  have h0 : s.txlen.toNat < s.cfg.bufCap := by omega
  have h1 : s.txlen.toNat + 1 < s.cfg.bufCap := by omega
  have h2 : s.txlen.toNat + 2 < s.cfg.bufCap := by omega
  simp [storeTxTrailer, memWrite, State.setCells, State.cells, h0, h1, h2]

/-- The trailer of an outbound frame that answers a next state. -/
theorem storeTxTrailer_eq_next (b0 b1 b2 : Byte) (s t : State) :
    storeTxTrailer b0 b1 b2 s = .next t ↔ s.txlen.toNat + 3 ≤ s.cfg.bufCap ∧
      t = { s with
        txlen := s.txlen + 3,
        txbuf := Memory.set (Memory.set (Memory.set s.txbuf s.txlen.toNat b0) (s.txlen.toNat + 1) b1)
          (s.txlen.toNat + 2) b2 } := by
  by_cases h : s.txlen.toNat + 3 ≤ s.cfg.bufCap
  · simp [storeTxTrailer_next b0 b1 b2 s h, h, eq_comm]
  · have h2 : ¬ s.txlen.toNat + 2 < s.cfg.bufCap := by omega
    simp only [h, false_and, iff_false, storeTxTrailer, andThen_eq_next, memWrite_eq_next]
    rintro ⟨t1, ⟨-, rfl⟩, t2, ⟨-, rfl⟩, t3, ⟨h3, -⟩, -⟩
    simp at h3
    omega

/-- What an accepted frame leaves. -/
theorem acceptFrame_eq_next (len : Word) (s t : State) :
    acceptFrame len s = .next t ↔ crcHighIndex len.toNat < s.cfg.bufCap ∧
      t = { s with
        buf := Memory.set s.buf (crcHighIndex len.toNat) 0x00, paylen := len - 4, st := .done, err := none } := by
  by_cases h : crcHighIndex len.toNat < s.cfg.bufCap <;>
    simp [acceptFrame, memWrite, State.setCells, State.cells, h, eq_comm]

/-- The four ways a terminated frame is judged (43_validator.md R130). -/
theorem finish_eq_next (len : Word) (s t : State) (h : finish len s = .next t) :
    (memRead .buf 0 s ≠ startMarker ∧ t = raiseRx .malformedFrame { s with flen := len }) ∨
    (memRead .buf 0 s = startMarker ∧ (len.toNat < 4 ∨ crcMatches len.toNat s = false) ∧
      t = raiseRx .checksumFailure { s with flen := len }) ∨
    (memRead .buf 0 s = startMarker ∧ 4 ≤ len.toNat ∧ crcMatches len.toNat s = true ∧
      crcHighIndex len.toNat < s.cfg.bufCap ∧
      t = { s with
        flen := len, buf := Memory.set s.buf (crcHighIndex len.toNat) 0x00, paylen := len - 4,
        st := .done, err := none }) := by
  have hc : crcMatches len.toNat { s with flen := len } = crcMatches len.toNat s := rfl
  have hr : memRead .buf 0 { s with flen := len } = memRead .buf 0 s := rfl
  unfold finish at h
  simp only [hc, hr] at h
  split at h
  · next h1 => left; exact ⟨h1, by simpa using h.symm⟩
  · next h1 =>
    have h1 : memRead .buf 0 s = startMarker := by simpa using h1
    split at h
    · next h2 => right; left; exact ⟨h1, .inl h2, by simpa using h.symm⟩
    · next h2 =>
      split at h
      · next h3 =>
        rw [acceptFrame_eq_next] at h
        right; right; exact ⟨h1, by omega, h3, h.1, h.2⟩
      · next h3 => right; left; exact ⟨h1, .inr (by simpa using h3), by simpa using h.symm⟩

/-- A frame that fits the buffer is always judged. -/
theorem finish_completes (len : Word) (s : State) (h : len.toNat ≤ s.cfg.bufCap) : ∃ t, finish len s = .next t := by
  unfold finish
  dsimp only
  split
  · exact ⟨_, rfl⟩
  · split
    · exact ⟨_, rfl⟩
    · next h4 =>
      split
      · have hh : crcHighIndex len.toNat < s.cfg.bufCap := by unfold crcHighIndex; omega
        exact ⟨_, (acceptFrame_eq_next _ _ _).mpr ⟨hh, rfl⟩⟩
      · exact ⟨_, rfl⟩

@[simp] theorem execAll_nil (s : State) : execAll [] s = .next s := rfl

/-- A run of two parts is the second after the first. -/
theorem execAll_append (is js : List Instr) (s : State) :
    execAll (is ++ js) s = andThen (execAll is s) (execAll js) := by
  induction is generalizing s with
  | nil => rfl
  | cons i is ih =>
    simp only [List.cons_append, execAll]
    cases h : exec i s <;> simp [ih]

end Sys2Proof.Machine
end

