-- ==== Sys2Proof/Laws/Exec.lean ====
section
/-!
SUPPORT. The inversion lemma of the events: everything an event can do when it answers a next state, one case per way
through its meaning.
-/

namespace Sys2Proof.Machine

/-- The state after an RX_BYTE has stored its byte, before the frame is judged. -/
def afterStore (b : Byte) (s : State) : State :=
  { s with wptr := s.wptr + 1, buf := Memory.set s.buf s.wptr.toNat b }

/-- The state after the three bytes of the trailer are stored. -/
def afterTrailer (s : State) : State :=
  let k := crc16 (memReadFirst .txbuf s.txlen.toNat s)
  { s with
    txlen := s.txlen + 3, txrdy := true,
    txbuf := Memory.set (Memory.set (Memory.set s.txbuf s.txlen.toNat (highByte k)) (s.txlen.toNat + 1) (lowByte k))
      (s.txlen.toNat + 2) terminator }

/-- Everything an event can do. -/
def Effect : Instr → State → State → Prop
  | .nop, s, t => t = s
  | .rst, s, t => t = resetRegisters s
  | .crcClr, s, t => t = { s with acc := 0 }
  | .crcByte b, s, t => t = { s with acc := byteStep s.acc b }
  | .crcFin, s, t => t = { s with crcout := escapePair s.acc }
  | .txClr, s, t => t = { s with txlen := 0, txrdy := false, txerr := false }
  | .txPut b, s, t =>
    (s.txrdy = true ∧ t = refuseEvent s) ∨
    (s.txrdy = false ∧ s.txerr = true ∧ t = s) ∨
    (s.txrdy = false ∧ s.txerr = false ∧ s.cfg.bufCap < s.txlen.toNat + 4 ∧ t = raiseInvalidCommand s) ∨
    (s.txrdy = false ∧ s.txerr = false ∧ s.txlen.toNat + 4 ≤ s.cfg.bufCap ∧
      t = { s with txlen := s.txlen + 1, txbuf := Memory.set s.txbuf s.txlen.toNat b })
  | .txEnd, s, t =>
    (s.txrdy = true ∧ t = refuseEvent s) ∨
    (s.txrdy = false ∧ s.txerr = true ∧ t = s) ∨
    (s.txrdy = false ∧ s.txerr = false ∧ s.txlen.toNat + 3 ≤ s.cfg.bufCap ∧ t = afterTrailer s)
  | .setTlimit v, s, t =>
    (s.st = .recv ∧ t = refuseEvent s) ∨ (s.st ≠ .recv ∧ t = { s with tlimit := v })
  | .setExplen v, s, t =>
    (s.st = .recv ∧ t = refuseEvent s) ∨ (s.st ≠ .recv ∧ t = { s with explen := v })
  | .rxStart m, s, t =>
    (s.st = .recv ∧ t = refuseEvent s) ∨
    (s.st ≠ .recv ∧ m = 1 ∧ explenUsable s = false ∧ t = refuseEvent s) ∨
    (s.st ≠ .recv ∧ (m = 1 → explenUsable s = true) ∧ t = openReceive m s)
  | .rxByte b, s, t =>
    (s.st ≠ .recv ∧ t = s) ∨
    (s.st = .recv ∧ s.wptr.toNat = s.cfg.bufCap ∧ t = s) ∨
    (s.st = .recv ∧ s.wptr.toNat < s.cfg.bufCap ∧ ¬ terminates b s ∧ t = afterStore b s) ∨
    (s.st = .recv ∧ s.wptr.toNat < s.cfg.bufCap ∧ terminates b s ∧ finish (s.wptr + 1) (afterStore b s) = .next t)
  | .tick, s, t =>
    (s.st ≠ .recv ∧ t = s) ∨
    (s.st = .recv ∧ (nextTmr s).toNat < s.tlimit.toNat ∧ t = { s with tmr := nextTmr s }) ∨
    (s.st = .recv ∧ s.tlimit.toNat ≤ (nextTmr s).toNat ∧ t = raiseRx .readTimeout { s with tmr := nextTmr s })
  | .rd a, s, t => t = { s with rdata := readAddress a s }

/-- The test of RX_BYTE on the stored byte is the termination condition of the rules. -/
theorem endsFrame_afterStore (b : Byte) (s : State) : endsFrame b (afterStore b s) = true ↔ terminates b s := by
  unfold endsFrame afterStore terminator terminates
  cases h : s.mode <;> simp

/-- What a stored RX_BYTE leads to. -/
theorem execRxByte_stored (b : Byte) (s : State) (hs : s.st = .recv) (hw : s.wptr.toNat < s.cfg.bufCap) :
    execRxByte b s =
      if terminates b s then finish (s.wptr + 1) (afterStore b s) else .next (afterStore b s) := by
  have hst : storeRx b s = .next (afterStore b s) := storeRx_next b s hw
  unfold execRxByte
  rw [if_neg (by simpa using hs), if_neg (by omega), hst, andThen_next]
  by_cases ht : terminates b s
  · rw [if_pos ht, if_pos ((endsFrame_afterStore b s).mpr ht)]; rfl
  · rw [if_neg ht, if_neg (mt (endsFrame_afterStore b s).mp ht)]

/-- What an accepted TX_END leads to. -/
theorem execTxEnd_stored (s : State) (hr : s.txrdy = false) (he : s.txerr = false)
    (h : s.txlen.toNat + 3 ≤ s.cfg.bufCap) : execTxEnd s = .next (afterTrailer s) := by
  unfold execTxEnd
  rw [if_neg (by simp [hr]), if_neg (by simp [he])]
  dsimp only
  rw [storeTxTrailer_next _ _ _ s h]
  rfl

/-- The counter of TICK. -/
theorem nextTmr_toNat (s : State) : (nextTmr s).toNat = min (s.tmr.toNat + 1) 0xFFFF := by
  unfold nextTmr
  rw [BitVec.toNat_ofNat]
  exact Nat.mod_eq_of_lt (by omega)

/-- An event that answers a next state does one of the things its meaning lists. -/
theorem exec_effect (i : Instr) (s t : State) (h : exec i s = .next t) : Effect i s t := by
  cases i with
  | nop => exact (Host.Outcome.next.inj h).symm
  | rst => exact (Host.Outcome.next.inj h).symm
  | crcClr => exact (Host.Outcome.next.inj h).symm
  | crcByte b => exact (Host.Outcome.next.inj h).symm
  | crcFin => exact (Host.Outcome.next.inj h).symm
  | txClr => exact (Host.Outcome.next.inj h).symm
  | rd a => exact (Host.Outcome.next.inj h).symm
  | txPut b =>
    simp only [exec, execTxPut] at h
    cases hr : s.txrdy
    · cases he : s.txerr
      · rw [if_neg (by simp [hr]), if_neg (by simp [he])] at h
        split at h
        · next hc => exact .inr (.inr (.inl ⟨hr, he, hc, (Host.Outcome.next.inj h).symm⟩))
        · next hc =>
          rw [storeTx_eq_next] at h
          exact .inr (.inr (.inr ⟨hr, he, by omega, h.2⟩))
      · rw [if_neg (by simp [hr]), if_pos he] at h
        exact .inr (.inl ⟨hr, he, (Host.Outcome.next.inj h).symm⟩)
    · rw [if_pos hr] at h
      exact .inl ⟨hr, (Host.Outcome.next.inj h).symm⟩
  | txEnd =>
    cases hr : s.txrdy
    · cases he : s.txerr
      · by_cases hc : s.txlen.toNat + 3 ≤ s.cfg.bufCap
        · have h' : execTxEnd s = .next t := h
          rw [execTxEnd_stored s hr he hc] at h'
          exact .inr (.inr ⟨hr, he, hc, (Host.Outcome.next.inj h').symm⟩)
        · simp only [exec, execTxEnd] at h
          rw [if_neg (by simp [hr]), if_neg (by simp [he]), andThen_eq_next] at h
          obtain ⟨u, h1, -⟩ := h
          rw [storeTxTrailer_eq_next] at h1
          exact absurd h1.1 hc
      · simp only [exec, execTxEnd] at h
        rw [if_neg (by simp [hr]), if_pos he] at h
        exact .inr (.inl ⟨hr, he, (Host.Outcome.next.inj h).symm⟩)
    · simp only [exec, execTxEnd] at h
      rw [if_pos hr] at h
      exact .inl ⟨hr, (Host.Outcome.next.inj h).symm⟩
  | setTlimit v =>
    simp only [exec, execSetTlimit] at h
    split at h
    · next hs => exact .inl ⟨hs, (Host.Outcome.next.inj h).symm⟩
    · next hs => exact .inr ⟨hs, (Host.Outcome.next.inj h).symm⟩
  | setExplen v =>
    simp only [exec, execSetExplen] at h
    split at h
    · next hs => exact .inl ⟨hs, (Host.Outcome.next.inj h).symm⟩
    · next hs => exact .inr ⟨hs, (Host.Outcome.next.inj h).symm⟩
  | rxStart m =>
    simp only [exec, execRxStart] at h
    split at h
    · next hs => exact .inl ⟨hs, (Host.Outcome.next.inj h).symm⟩
    · next hs =>
      split at h
      · next hm => exact .inr (.inl ⟨hs, hm.1, hm.2, (Host.Outcome.next.inj h).symm⟩)
      · next hm =>
        refine .inr (.inr ⟨hs, fun h1 => ?_, (Host.Outcome.next.inj h).symm⟩)
        by_contra h2
        exact hm ⟨h1, by simpa using h2⟩
  | rxByte b =>
    have h' : execRxByte b s = .next t := h
    by_cases hs : s.st = .recv
    · by_cases hf : s.wptr.toNat = s.cfg.bufCap
      · unfold execRxByte at h'
        rw [if_neg (by simpa using hs), if_pos hf] at h'
        exact .inr (.inl ⟨hs, hf, (Host.Outcome.next.inj h').symm⟩)
      · by_cases hw : s.wptr.toNat < s.cfg.bufCap
        · rw [execRxByte_stored b s hs hw] at h'
          split at h'
          · next ht => exact .inr (.inr (.inr ⟨hs, hw, ht, h'⟩))
          · next ht => exact .inr (.inr (.inl ⟨hs, hw, ht, (Host.Outcome.next.inj h').symm⟩))
        · unfold execRxByte at h'
          rw [if_neg (by simpa using hs), if_neg hf, andThen_eq_next] at h'
          obtain ⟨u, h1, -⟩ := h'
          rw [storeRx_eq_next] at h1
          exact absurd h1.1 hw
    · unfold execRxByte at h'
      rw [if_pos hs] at h'
      exact .inl ⟨hs, (Host.Outcome.next.inj h').symm⟩
  | tick =>
    simp only [exec, execTick] at h
    split at h
    · next hs => exact .inl ⟨hs, (Host.Outcome.next.inj h).symm⟩
    · next hs =>
      have hs : s.st = .recv := by simpa using hs
      split at h
      · next ht => exact .inr (.inr ⟨hs, ht, (Host.Outcome.next.inj h).symm⟩)
      · next ht => exact .inr (.inl ⟨hs, by simpa using ht, (Host.Outcome.next.inj h).symm⟩)

/-- Bits 15:10 of `STATUS` are 0 in every state (10_state.md R23). -/
theorem statusWord_reserved (s : State) : (statusWord s).extractLsb' 10 6 = 0 := by
  have h : ∀ (st : RxState) (mode : Strategy) (err : Option RxError) (a b c d : Bool),
      (0#6 ++ BitVec.ofBool a ++ BitVec.ofBool b ++ BitVec.ofBool c ++ BitVec.ofBool d ++ modeCode mode ++
        errCode err ++ stCode st).extractLsb' 10 6 = 0 := by
    intro st mode err
    cases st <;> cases mode <;> rcases err with _ | (_ | _ | _) <;> decide
  exact h s.st s.mode s.err s.seq s.ill s.txerr s.txrdy

/-- The high byte of a pair. -/
@[simp] theorem highByte_append (a b : Byte) : highByte (a ++ b) = a := BitVec.extractLsb'_append_eq_left

/-- The low byte of a pair. -/
@[simp] theorem lowByte_append (a b : Byte) : lowByte (a ++ b) = b := BitVec.extractLsb'_append_eq_right

/-- What a judged frame changes: never more than these fields, and it ends in a terminal state. -/
theorem finish_frame (len : Word) (s t : State) (h : finish len s = .next t) :
    t = { s with flen := len, st := t.st, err := t.err, paylen := t.paylen, buf := t.buf } ∧
    ((t.st = .done ∧ t.err = none) ∨
      (t.st = .fail ∧ (t.err = some .malformedFrame ∨ t.err = some .checksumFailure))) := by
  rcases finish_eq_next len s t h with ⟨-, rfl⟩ | ⟨-, -, rfl⟩ | ⟨-, -, -, -, rfl⟩
  · exact ⟨rfl, .inr ⟨rfl, .inl rfl⟩⟩
  · exact ⟨rfl, .inr ⟨rfl, .inr rfl⟩⟩
  · exact ⟨rfl, .inl ⟨rfl, rfl⟩⟩

end Sys2Proof.Machine
end

