-- ==== Sys2Proof/Laws/PerInstr.lean ====
section
/-!
SUPPORT. Statements about every event as syntax, one lemma per constructor.
-/

namespace Sys2Proof.Laws

/-- An event's word lies in the event's own row of the opcode map (30_encoding.md R66). -/
def EncodesInRow.Statement (i : Instr) : Prop := encode i &&& (rowOf i).mask = (rowOf i).pattern

/-- A mask of a word acts on its two fields. -/
theorem eventWord_and (op m : BitVec 4) (arg k : Word) :
    eventWord op arg &&& eventWord m k = eventWord (op &&& m) (arg &&& k) := by
  exact BitVec.and_append

/-- A byte operand leaves its must-be-zero bits zero. -/
theorem byteArg_and_mustBeZero : ∀ b : Byte, byteArg b &&& 0xFF00 = 0 := by decide +kernel

/-- The bits of a word with a byte operand. -/
theorem eventWord_byteArg_row (op : BitVec 4) (b : Byte) :
    eventWord op (byteArg b) &&& eventWord 0xF 0xFF00 = eventWord op 0 := by
  rw [eventWord_and, byteArg_and_mustBeZero]
  congr 1
  exact BitVec.and_allOnes

/-- The bits of a word with an operand of 16 bits. -/
theorem eventWord_half_row (op : BitVec 4) (v : Word) :
    eventWord op v &&& eventWord 0xF 0 = eventWord op 0 := by
  rw [eventWord_and, show v &&& 0 = (0 : Word) from BitVec.and_zero]
  congr 1
  exact BitVec.and_allOnes

theorem EncodesInRow.nop : EncodesInRow.Statement .nop := by unfold EncodesInRow.Statement; decide
theorem EncodesInRow.rst : EncodesInRow.Statement .rst := by unfold EncodesInRow.Statement; decide
theorem EncodesInRow.crcClr : EncodesInRow.Statement .crcClr := by unfold EncodesInRow.Statement; decide
theorem EncodesInRow.crcByte (b : Byte) : EncodesInRow.Statement (.crcByte b) := eventWord_byteArg_row 0x3 b
theorem EncodesInRow.crcFin : EncodesInRow.Statement .crcFin := by unfold EncodesInRow.Statement; decide
theorem EncodesInRow.txClr : EncodesInRow.Statement .txClr := by unfold EncodesInRow.Statement; decide
theorem EncodesInRow.txPut (b : Byte) : EncodesInRow.Statement (.txPut b) := eventWord_byteArg_row 0x6 b
theorem EncodesInRow.txEnd : EncodesInRow.Statement .txEnd := by unfold EncodesInRow.Statement; decide
theorem EncodesInRow.setTlimit (v : Word) : EncodesInRow.Statement (.setTlimit v) := eventWord_half_row 0x8 v
theorem EncodesInRow.setExplen (v : Word) : EncodesInRow.Statement (.setExplen v) := eventWord_half_row 0x9 v
theorem EncodesInRow.rxStart (m : BitVec 1) : EncodesInRow.Statement (.rxStart m) := by
  unfold EncodesInRow.Statement; revert m; decide
theorem EncodesInRow.rxByte (b : Byte) : EncodesInRow.Statement (.rxByte b) := eventWord_byteArg_row 0xB b
theorem EncodesInRow.tick : EncodesInRow.Statement .tick := by unfold EncodesInRow.Statement; decide
theorem EncodesInRow.rd (a : Word) : EncodesInRow.Statement (.rd a) := eventWord_half_row 0xE a

end Sys2Proof.Laws
end

