-- ==== Sys2Proof/Tests/Slice0.lean ====
section
/-!
SUPPORT. Tests of the model against the words and vectors of spec/, and the witnesses of the obligations' hypotheses.
Expected values are those of spec/95_test_vectors.md (the section is named at each test) or of the rule named.
-/

namespace Sys2Proof.Tests

open Sys2Proof.Machine

/-! ### Well-formedness: the ill-formed term of each check -/

/-- `4 <= BUF_CAP <= 4096` (00_scope.md R4). -/
theorem test_wellFormed_config :
    (Config.mk 4).wellFormed ∧ (Config.mk 4096).wellFormed ∧ ¬ (Config.mk 3).wellFormed ∧
      ¬ (Config.mk 4097).wellFormed := by decide

/-- A string of a pseudo-instruction is ASCII (30_encoding.md R70). -/
theorem test_wellFormed_ascii : asciiOnly [0x51, 0x7F] = true ∧ asciiOnly [0x51, 0x80] = false := by decide

/-! ### Decoding: one word per constructor, bit by bit, `op` then `arg` (30_encoding.md R63, R66) -/

theorem test_decode_nop : decode 0b0000_0000000000000000 = .ok .nop := rfl
theorem test_decode_rst : decode 0b0001_0000000000000000 = .ok .rst := rfl
theorem test_decode_crcClr : decode 0b0010_0000000000000000 = .ok .crcClr := rfl
theorem test_decode_crcByte : decode 0b0011_0000000001010001 = .ok (.crcByte 0x51) := rfl
theorem test_decode_crcFin : decode 0b0100_0000000000000000 = .ok .crcFin := rfl
theorem test_decode_txClr : decode 0b0101_0000000000000000 = .ok .txClr := rfl
theorem test_decode_txPut : decode 0b0110_0000000001001101 = .ok (.txPut 0x4D) := rfl
theorem test_decode_txEnd : decode 0b0111_0000000000000000 = .ok .txEnd := rfl
theorem test_decode_setTlimit : decode 0b1000_0000011111010000 = .ok (.setTlimit 2000) := rfl
theorem test_decode_setExplen : decode 0b1001_0000000000000101 = .ok (.setExplen 5) := rfl
theorem test_decode_rxStart :
    decode 0b1010_0000000000000000 = .ok (.rxStart 0) ∧ decode 0b1010_0000000000000001 = .ok (.rxStart 1) :=
  ⟨rfl, rfl⟩
theorem test_decode_rxByte : decode 0b1011_0000000011100111 = .ok (.rxByte 0xE7) := rfl
theorem test_decode_tick : decode 0b1100_0000000000000000 = .ok .tick := rfl
theorem test_decode_rd : decode 0b1110_0001000000000100 = .ok (.rd 0x1004) := rfl

/-- Illegal words (30_encoding.md R67; 2.5), the must-be-zero boundary of each form among them. -/
theorem test_decode_illegal :
    decode 0xD0000 = .error (.reservedOpcode 0xD) ∧ decode 0xF1234 = .error (.reservedOpcode 0xF) ∧
    decode 0x00001 = .error (.mustBeZero 0x0 0x0001) ∧ decode 0xC8000 = .error (.mustBeZero 0xC 0x8000) ∧
    decode 0x30100 = .error (.mustBeZero 0x3 0x0100) ∧ decode 0xB0128 = .error (.mustBeZero 0xB 0x0128) ∧
    decode 0xA0002 = .error (.mustBeZero 0xA 0x0002) := by
  refine ⟨rfl, rfl, rfl, rfl, rfl, rfl, rfl⟩

/-- Words of the programs of section 3, from the encoder. -/
theorem test_encode :
    encode (.setTlimit 2000) = 0x807D0 ∧ encode (.rxByte 0x28) = 0xB0028 ∧ encode (.rxStart 1) = 0xA0001 ∧
    encode .txEnd = 0x70000 ∧ encode (.rd 0x2006) = 0xE2006 := by decide

/-- A word of the host's table fits 20 bits (30_encoding.md R63). -/
theorem test_decodeTableWord :
    decodeTableWord 24 0xC0000 = some .tick ∧ decodeTableWord 24 0xD0000 = none ∧
    decodeTableWord 24 0x1C0000 = none := by decide

/-- The word presented is the one the next step runs. -/
theorem test_withFetchWord : (nextOf (step (State.reset.withFetchWord 24 0x30051))).map (·.acc) = some 0x4AD4 := by
  decide

/-! ### The CRC -/

/-- 2.1.1. -/
theorem test_nibbleStep :
    nibbleStep 0x0000 0x5 = 0x50A5 ∧ nibbleStep 0x50A5 0x1 = 0x4AD4 ∧ nibbleStep 0xFFFF 0xF = 0xFFF0 ∧
    nibbleStep 0x1234 0xA = 0x922B ∧ nibbleStep 0xF000 0xF = 0x0000 := by decide

/-- 2.1.2. -/
theorem test_byteStep :
    byteStep 0x4AD4 0x50 = 0x677B ∧ byteStep 0xFFFF 0xFF = 0xFF00 ∧ byteStep 0x1D0F 0x00 = 0xCC9C ∧
    byteStep 0xB7A9 0x0D = 0xAF91 := by decide

/-- 2.1.4: "QPIGS", "POP02", "A12", the check value of "123456789". -/
theorem test_crc16 :
    crc16 [0x51, 0x50, 0x49, 0x47, 0x53] = 0xB7A9 ∧ crc16 [0x50, 0x4F, 0x50, 0x30, 0x32] = 0xE20B ∧
    crc16Raw [0x50, 0x4F, 0x50, 0x30, 0x32] = 0xE20A ∧ crc16 [0x41, 0x31, 0x32] = 0x0B29 ∧
    crc16Raw [0x31, 0x32, 0x33, 0x34, 0x35, 0x36, 0x37, 0x38, 0x39] = 0x31C3 := by decide

/-- 2.1.5. -/
theorem test_esc :
    esc 0x27 = 0x27 ∧ esc 0x28 = 0x29 ∧ esc 0x29 = 0x29 ∧ esc 0x0C = 0x0C ∧ esc 0x0D = 0x0E ∧ esc 0x09 = 0x09 ∧
    esc 0x0A = 0x0B ∧ esc 0xFF = 0xFF := by decide

/-- 2.1.7. -/
theorem test_crcClr : (nextOf (exec .crcClr { State.reset with acc := 0xB7A9, crcout := 0x1234 })).map
    (fun t => (t.acc, t.crcout)) = some (0x0000, 0x1234) := by decide

/-- 2.1.7: no CRC_CLR between, the accumulator continues. -/
theorem test_crcByte : (nextOf (exec (.crcByte 0x50) { State.reset with acc := 0x4AD4 })).map (·.acc) =
    some 0x677B := by decide

/-- 2.1.7: both bytes escaped, no carry between them, `ACC` kept. -/
theorem test_crcFin : (nextOf (exec .crcFin { State.reset with acc := 0x280D })).map
    (fun t => (t.crcout, t.acc)) = some (0x290E, 0x280D) := by decide

/-! ### The encoder -/

/-- 2.2.1: "QPI" and the empty command. -/
theorem test_encodeCommand :
    encodeCommand 256 [0x51, 0x50, 0x49] = some [0x51, 0x50, 0x49, 0xBE, 0xAC, 0x0D] ∧
    encodeCommand 256 [] = some [0x00, 0x00, 0x0D] := by decide

/-- 2.2.2: `SEQ` stays. -/
theorem test_txClr : (nextOf (exec .txClr { State.reset with txrdy := true, seq := true, txlen := 3 })).map
    (fun t => (t.txlen, statusWord t)) = some (0, 0x0200) := by decide

/-- 2.2.2: the 253rd byte is stored. -/
theorem test_txPut_last : (nextOf (exec (.txPut 0x41) { State.reset with txlen := 252 })).map
    (fun t => (t.txlen, t.cell .txbuf 252, statusWord t)) = some (253, some 0x41, 0x0000) := by decide

/-- 2.2.2: the 254th byte is not. -/
theorem test_txPut_full : (nextOf (exec (.txPut 0x41) { State.reset with txlen := 253 })).map
    (fun t => (t.txlen, t.cell .txbuf 253, statusWord t)) = some (253, none, 0x0080) := by decide

/-- 2.2.1: "A12", both CRC bytes escaped; `ACC` is not used. -/
theorem test_txEnd :
    (nextOf (exec .txEnd
      { State.reset with acc := 0x1234, txlen := 3, txbuf := [⟨0, 0x41⟩, ⟨1, 0x31⟩, ⟨2, 0x32⟩] })).map
      (fun t => (t.txbuf, t.txlen, statusWord t, t.acc)) =
    some ([⟨0, 0x41⟩, ⟨1, 0x31⟩, ⟨2, 0x32⟩, ⟨3, 0x0B⟩, ⟨4, 0x29⟩, ⟨5, 0x0D⟩], 6, 0x0040, 0x1234) := by decide

/-- 2.2.2: TX_END again is refused. -/
theorem test_txEnd_again : (nextOf (exec .txEnd { State.reset with txrdy := true, txlen := 3 })).map
    (fun t => (t.txlen, statusWord t)) = some (3, 0x0240) := by decide

/-! ### The receiver -/

/-- 2.3.6: refused during a receive. -/
theorem test_setTlimit : (nextOf (exec (.setTlimit 9) { State.reset with st := .recv, tlimit := 5 })).map
    (fun t => (t.tlimit, statusWord t)) = some (5, 0x0201) := by decide

/-- 2.3.6. -/
theorem test_setExplen : (nextOf (exec (.setExplen 7) { State.reset with st := .recv })).map
    (fun t => (t.explen, statusWord t)) = some (0, 0x0201) := by decide

/-- 2.3.2: `EXPLEN` 3 and 257 are refused. -/
theorem test_rxStart_refused :
    (nextOf (exec (.rxStart 1) { State.reset with explen := 3 })).map statusWord = some 0x0200 ∧
    (nextOf (exec (.rxStart 1) { State.reset with explen := 257 })).map statusWord = some 0x0200 := by decide

/-- 2.3.2: `EXPLEN` 4 and 256 are accepted. -/
theorem test_rxStart_accepted :
    (nextOf (exec (.rxStart 1) { State.reset with explen := 4 })).map statusWord = some 0x0021 ∧
    (nextOf (exec (.rxStart 1) { State.reset with explen := 256 })).map statusWord = some 0x0021 := by decide

/-- A receive that has stored these bytes. -/
def received (mode : Strategy) (explen wptr : Word) (bytes : Memory) : State :=
  { State.reset with st := .recv, mode := mode, explen := explen, wptr := wptr, buf := bytes }

/-- The bytes 28 42 E7 C9 of 2.3.2. -/
def bytesOfB : Memory := [⟨0, 0x28⟩, ⟨1, 0x42⟩, ⟨2, 0xE7⟩, ⟨3, 0xC9⟩]

/-- 2.3.2: the fifth byte ends a fixed frame although it is no terminator. -/
theorem test_rxByte_fixed : (nextOf (exec (.rxByte 0xFF) (received .fixed 5 4 bytesOfB))).map
    (fun t => (t.buf, t.flen, t.paylen, statusWord t)) =
    some ([⟨0, 0x28⟩, ⟨1, 0x42⟩, ⟨2, 0x00⟩, ⟨3, 0xC9⟩, ⟨4, 0xFF⟩], 5, 1, 0x0022) := by decide

/-- 2.4.1, 2.3.1: a wrong marker is reported before anything else. -/
theorem test_rxByte_marker : (nextOf (exec (.rxByte 0x0D) (received .scan 0 1 [⟨0, 0x41⟩]))).map
    (fun t => (t.flen, statusWord t)) = some (2, 0x0013) := by decide

/-- 2.3.4: `TLIMIT` 0 acts as 1. -/
theorem test_tick_zero : (nextOf (exec .tick (received .scan 0 0 []))).map (fun t => (t.tmr, statusWord t)) =
    some (1, 0x000F) := by decide

/-- 2.3.4: the 65535th TICK of the longest window. -/
theorem test_tick_last :
    (nextOf (exec .tick { received .scan 0 0 [] with tlimit := 0xFFFF, tmr := 0xFFFD })).map
      (fun t => (t.tmr, statusWord t)) = some (0xFFFE, 0x0001) ∧
    (nextOf (exec .tick { received .scan 0 0 [] with tlimit := 0xFFFF, tmr := 0xFFFE })).map
      (fun t => (t.tmr, statusWord t)) = some (0xFFFF, 0x000F) := by decide

/-! ### System and host access -/

/-- 2.5. -/
theorem test_nop : exec .nop { State.reset with rdata := 0x4AD4 } = .next { State.reset with rdata := 0x4AD4 } := rfl

/-- 2.5: every register cleared, the buffer kept. -/
theorem test_rst :
    nextOf (exec .rst { received .scan 0 1 [⟨0, 0x28⟩] with seq := true, ill := true, tlimit := 9 }) =
      some { State.reset with buf := [⟨0, 0x28⟩] } := by decide

/-- 2.5: a register, a reserved address, an address beyond the buffer. -/
theorem test_rd_map :
    (nextOf (exec (.rd 0x0001) { State.reset with acc := 0x4AD4 })).map (·.rdata) = some 0x4AD4 ∧
    (nextOf (exec (.rd 0x000A) State.reset)).map (·.rdata) = some 0x0000 ∧
    (nextOf (exec (.rd 0x1100) State.reset)).map (·.rdata) = some 0x0000 ∧
    (nextOf (exec (.rd 0xFFFF) State.reset)).map (·.rdata) = some 0x0000 := by decide

/-- 2.4.3: bytes of the two windows. -/
theorem test_rd_cells :
    (nextOf (exec (.rd 0x1003) (received .scan 0 4 bytesOfB))).map (·.rdata) = some 0x00C9 ∧
    (nextOf (exec (.rd 0x20FF) { State.reset with txbuf := [⟨255, 0x0D⟩] })).map (·.rdata) = some 0x000D := by decide

/-! ### Buffers, ports, text -/

/-- A cell is written at either end of the list, and written again. -/
theorem test_memory_set :
    Memory.set (Memory.set (Memory.set [] 5 0x01) 2 0x02) 5 0x03 = [⟨2, 0x02⟩, ⟨5, 0x03⟩] ∧
    Memory.wf [⟨2, 0x02⟩, ⟨5, 0x03⟩] = true ∧ Memory.wf [⟨5, 0x02⟩, ⟨5, 0x03⟩] = false := by decide

/-- Reset memory has the canonical form. -/
theorem test_reset_wf : ∀ b, Memory.wf (State.reset.cells b) = true := by
  intro b; cases b <;> rfl

/-- The byte of a cycle comes before its tick (30_encoding.md R71). -/
theorem test_sameCycle :
    nextEvent [.cycle ⟨some 0xA0000, some 0x28, true⟩] = some (.host 0xA0000, [.cycle ⟨none, some 0x28, true⟩]) ∧
    nextEvent [.cycle ⟨none, some 0x28, true⟩] = some (.line 0x28, [.cycle ⟨none, none, true⟩]) ∧
    nextEvent [.cycle ⟨some 0xA0000, none, false⟩] = some (.host 0xA0000, []) := by decide

/-- `RX_BYTE 0x0D ; end` and `TX_PUT 'Q'` (30_encoding.md R69). -/
theorem test_assemble_event :
    assembleLine ['R', 'X', '_', 'B', 'Y', 'T', 'E', ' ', '0', 'x', '0', 'D', ' ', ';', 'e'] =
      some [.rxByte 0x0D] ∧
    assembleLine ['T', 'X', '_', 'P', 'U', 'T', ' ', singleQuote, 'Q', singleQuote] = some [.txPut 0x51] ∧
    assembleLine ['T', 'I', 'C', 'K', ' ', '1'] = none := by decide

/-- `WAIT 2` and `RECV_SCAN 9` (30_encoding.md R70). -/
theorem test_assemble_pseudo :
    assembleLine ['W', 'A', 'I', 'T', ' ', '2'] = some [.tick, .tick] ∧
    assembleLine ['R', 'E', 'C', 'V', '_', 'S', 'C', 'A', 'N', ' ', '9'] = some [.setTlimit 9, .rxStart 0] := by
  decide

/-! ### Witnesses: for each obligation with hypotheses, values that meet them, clause by clause -/

theorem test_witness_EncodeDecodeRoundTrip : decode 0xA0001 = .ok (.rxStart 1) := rfl

theorem test_witness_DecodeFollowsTheMap :
    decode 0xB00FF = .ok (.rxByte 0xFF) ∧ decode 0xB0100 = .error (.mustBeZero 0xB 0x0100) := ⟨rfl, rfl⟩

theorem test_witness_OpcodeRowsAreDisjoint :
    rowOf .tick ∈ opcodeMap ∧ 0xC0000#20 &&& (rowOf .tick).mask = (rowOf .tick).pattern := by decide

theorem test_witness_StepRunsHostWord :
    ({ State.reset with inputs := [.cycle ⟨some 0xC0000, some 0x28, true⟩] } : State).inputs =
      .cycle ⟨some 0xC0000, some 0x28, true⟩ :: [] ∧ decode 0xC0000 = .ok .tick := ⟨rfl, rfl⟩

theorem test_witness_StepRunsLineByteAndTick :
    ({ State.reset with inputs := [.cycle ⟨none, some 0x28, false⟩] } : State).inputs =
      .cycle ⟨none, some 0x28, false⟩ :: [] ∧
    ({ State.reset with inputs := [.cycle ⟨none, none, true⟩] } : State).inputs =
      .cycle ⟨none, none, true⟩ :: [] := ⟨rfl, rfl⟩

theorem test_witness_IllegalWordSetsIllOnly :
    ({ State.reset with inputs := [.cycle ⟨some 0xD0000, none, false⟩] } : State).inputs =
      .cycle ⟨some 0xD0000, none, false⟩ :: [] ∧ decode 0xD0000 = .error (.reservedOpcode 0xD) := ⟨rfl, rfl⟩

theorem test_witness_NoEventChangesNothing :
    State.reset.inputs = [] ∧
    ({ State.reset with inputs := [.cycle ⟨none, none, false⟩] } : State).inputs =
      .cycle ⟨none, none, false⟩ :: [] := ⟨rfl, rfl⟩

theorem test_witness_ResetPinActsAsRst :
    ({ State.reset with inputs := [.resetPin] } : State).inputs = .resetPin :: [] := rfl

theorem test_witness_RawCrcIsLinear : [(0x51 : Byte), 0x50].length = [(0x28 : Byte), 0x0D].length := rfl

theorem test_witness_EscapeOfCrcBytes : reservedByte 0x27 = false ∧ reservedByte 0x29 = false := by decide

theorem test_witness_CrcByteResult : State.reset.acc = 0x0000 := rfl

theorem test_witness_EncodeContract :
    (List.replicate 254 (0x41 : Byte)).length + 3 > 256 ∧ (List.replicate 253 (0x41 : Byte)).length + 3 ≤ 256 := by
  rw [List.length_replicate, List.length_replicate]; decide

theorem test_witness_TxClrResult :
    exec .nop { State.reset with txrdy := true, txerr := true } =
      .next { State.reset with txrdy := true, txerr := true } ∧ .nop ≠ Instr.txClr ∧ .nop ≠ Instr.rst :=
  ⟨rfl, by decide, by decide⟩

theorem test_witness_TxPutResult :
    ({ State.reset with txrdy := true } : State).txrdy = true ∧
    (State.reset.txrdy = false ∧ ({ State.reset with txerr := true } : State).txerr = true) ∧
    (let s : State := { State.reset with txlen := 253 }
     s.txrdy = false ∧ s.txerr = false ∧ s.txlen.toNat + 4 > s.cfg.bufCap) ∧
    (let s : State := { State.reset with txlen := 252 }
     s.txrdy = false ∧ s.txerr = false ∧ s.txlen.toNat + 4 ≤ s.cfg.bufCap) := by decide

theorem test_witness_TxEndResult :
    ({ State.reset with txrdy := true } : State).txrdy = true ∧
    (State.reset.txrdy = false ∧ ({ State.reset with txerr := true } : State).txerr = true) ∧
    (let s : State := { State.reset with txlen := 253 }
     s.txrdy = false ∧ s.txerr = false ∧ s.txlen.toNat + 3 ≤ s.cfg.bufCap) := by decide

theorem test_witness_SendAssemblesEncodedFrame : State.reset.cfg.wellFormed := by decide

theorem test_witness_SetTlimitResult :
    (received .scan 0 0 []).st = .recv ∧ State.reset.st ≠ .recv := by decide

theorem test_witness_SetExplenResult :
    (received .scan 0 0 []).st = .recv ∧ State.reset.st ≠ .recv := by decide

theorem test_witness_RxStartResult :
    (received .scan 0 0 []).st = .recv ∧
    (let s : State := { State.reset with explen := 3 }
     s.st ≠ .recv ∧ (1 : BitVec 1) = 1 ∧ (s.explen.toNat < 4 ∨ s.explen.toNat > s.cfg.bufCap)) ∧
    (let s : State := { State.reset with explen := 257 }
     s.st ≠ .recv ∧ (1 : BitVec 1) = 1 ∧ (s.explen.toNat < 4 ∨ s.explen.toNat > s.cfg.bufCap)) ∧
    (let s : State := { State.reset with explen := 4 }
     s.st ≠ .recv ∧ (1 : BitVec 1) = 1 ∧ 4 ≤ s.explen.toNat ∧ s.explen.toNat ≤ s.cfg.bufCap) ∧
    (let s : State := { State.reset with explen := 256 }
     s.st ≠ .recv ∧ (1 : BitVec 1) = 1 ∧ 4 ≤ s.explen.toNat ∧ s.explen.toNat ≤ s.cfg.bufCap) ∧
    (State.reset.st ≠ .recv ∧ (0 : BitVec 1) = 0) ∧
    (nextOf (exec .tick (received .scan 0 0 []))).map (fun t => decide (t.st = .recv)) = some false := by decide

theorem test_witness_RxByteIsDropped :
    State.reset.st ≠ .recv ∧
    (received .scan 0 256 []).st = .recv ∧ (received .scan 0 256 []).wptr.toNat = (received .scan 0 256 []).cfg.bufCap := by
  decide

/-- A scan receive in its last cell, and a fixed receive two bytes before its length. -/
theorem test_witness_RxByteStoresByte :
    (let s := received .scan 0 255 []
     s.st = .recv ∧ s.wptr.toNat < s.cfg.bufCap ∧ ¬ terminates 0x28 s) ∧
    (let s := received .fixed 5 3 bytesOfB
     s.st = .recv ∧ s.wptr.toNat < s.cfg.bufCap ∧ ¬ terminates 0x0D s) := by decide

/-- The frames "0D", "28 0D", "28 42 E7 C9 0D" and "28 42 E7 C9 0D" cut at four bytes: every clause of the result. -/
theorem test_witness_RxByteJudgesFrame :
    (let s := received .scan 0 0 []
     s.cfg.wellFormed ∧ s.st = .recv ∧ s.wptr.toNat < s.cfg.bufCap ∧ terminates 0x0D s ∧
       (memReadFirst .buf s.wptr.toNat s ++ [0x0D])[0]? ≠ some 0x28) ∧
    (let s := received .scan 0 2 [⟨0, 0x28⟩, ⟨1, 0x41⟩]
     s.cfg.wellFormed ∧ s.st = .recv ∧ s.wptr.toNat < s.cfg.bufCap ∧ terminates 0x0D s ∧
       memReadFirst .buf s.wptr.toNat s ++ [0x0D] = [0x28, 0x41, 0x0D]) ∧
    (let s := received .scan 0 4 bytesOfB
     s.cfg.wellFormed ∧ s.st = .recv ∧ s.wptr.toNat < s.cfg.bufCap ∧ terminates 0x0D s ∧
       memReadFirst .buf s.wptr.toNat s ++ [0x0D] = [0x28, 0x42, 0xE7, 0xC9, 0x0D] ∧ crc16 [0x28, 0x42] = 0xE7C9) ∧
    (let s := received .fixed 4 3 bytesOfB
     s.cfg.wellFormed ∧ s.st = .recv ∧ s.wptr.toNat < s.cfg.bufCap ∧ terminates 0x0D s ∧
       memReadFirst .buf s.wptr.toNat s ++ [0x0D] = [0x28, 0x42, 0xE7, 0x0D] ∧ crc16 [0x28] = 0xA56A) := by decide

/-- Outside a receive, the only tick of a window of 1, the first tick of a window of 2. -/
theorem test_witness_TickResult :
    State.reset.st ≠ .recv ∧
    (let s : State := { received .scan 0 0 [] with tlimit := 1 }
     s.st = .recv ∧ min (s.tmr.toNat + 1) 0xFFFF ≥ s.tlimit.toNat) ∧
    (let s : State := { received .scan 0 0 [] with tlimit := 2 }
     s.st = .recv ∧ min (s.tmr.toNat + 1) 0xFFFF < s.tlimit.toNat) := by decide

theorem test_witness_EncodedFrameIsAccepted :
    (received .scan 0 0 []).cfg.wellFormed ∧ FreshReceive (received .scan 0 0 []) .scan ∧
    [(0x4E : Byte), 0x41, 0x4B].length + 4 ≤ (received .scan 0 0 []).cfg.bufCap ∧
    (0x0D : Byte) ∉ [(0x4E : Byte), 0x41, 0x4B] := by decide

/-- A receive that has just been opened meets the invariant. -/
theorem opened_inv (mode : Strategy) (tlimit explen : Word)
    (h : mode = .fixed → 4 ≤ explen.toNat ∧ explen.toNat ≤ 256) :
    BlockInv { received mode explen 0 [] with tlimit := tlimit } where
  errIffFail := by simp [received, State.reset]
  wptrInBuffer := by simp [received, State.reset]
  idleIsClear := by simp [received]
  doneHoldsFrame := by simp [received]
  recvIsOpen := by intro _; refine ⟨rfl, rfl, fun h => ?_⟩; exact h
  timeoutHasNoLength := by simp [received]
  badFrameHasLength := by simp [received]
  txHasRoom := by simp [received, State.reset]
  txHoldsFrame := by simp [received, State.reset]
  statusHighBits := statusWord_reserved _
  capLegal := (by decide : State.reset.cfg.wellFormed)
  cellsCanonical := by intro b; cases b <;> rfl
  cellsInBuffer := by intro b i v e; cases b <;> cases e
  receivedWritten := by intro i e; exact absurd e (Nat.not_lt_zero i)
  commandWritten := by intro i e; exact absurd e (Nat.not_lt_zero i)
  fixedLengthAhead := by
    intro _ e
    obtain ⟨h1, h2⟩ := h e
    exact ⟨h1, h2, Nat.lt_of_lt_of_le (by decide : 0 < 4) h1⟩
  scanSawNoTerminator := by intro _ _ i e; exact absurd e (Nat.not_lt_zero i)
  zeroLimitTmr := by intro _ _; rfl
  flenInBuffer := by simp [received, State.reset]
  failHasNoPayload := by simp [received]
  crcoutEscaped := (by decide :
    reservedByte (highByte State.reset.crcout) = false ∧ reservedByte (lowByte State.reset.crcout) = false)

/-- The longest scan frame, a tick inside its window of 2. -/
theorem test_witness_ScanLengthIgnoresChunking :
    let s : State := { received .scan 0 0 [] with tlimit := 2 }
    let before : List Instr := [.rxByte 0x28, .tick, .rd 0, .rxByte 0x41]
    BlockInv s ∧ FreshReceive s .scan ∧ .rst ∉ before ∧ 0x0D ∉ bytesOf before ∧
      (bytesOf before).length + 1 ≤ s.cfg.bufCap ∧ ticksOf before < window s :=
  ⟨opened_inv .scan 2 0 (by simp), by decide⟩

theorem test_witness_FixedLengthIgnoresChunking :
    let s : State := { received .fixed 4 0 [] with tlimit := 2 }
    let before : List Instr := [.rxByte 0x28, .tick, .rxByte 0x0D, .rxStart 0, .rxByte 0x41]
    BlockInv s ∧ FreshReceive s .fixed ∧ .rst ∉ before ∧
      (bytesOf before).length + 1 = s.explen.toNat ∧ ticksOf before < window s :=
  ⟨opened_inv .fixed 2 4 (by decide), by decide⟩

/-- Both strategies, the windows 0 and 2. -/
theorem test_witness_TimeoutEndsTheWindow :
    (let s : State := { received .scan 0 0 [] with tlimit := 0 }
     let before : List Instr := [.rxByte 0x28]
     BlockInv s ∧ FreshReceive s .scan ∧ .rst ∉ before ∧ 0x0D ∉ bytesOf before ∧ ticksOf before + 1 = window s) ∧
    (let s : State := { received .fixed 4 0 [] with tlimit := 2 }
     let before : List Instr := [.rxByte 0x28, .tick, .rxByte 0x0D, .rxByte 0x41]
     BlockInv s ∧ FreshReceive s .fixed ∧ .rst ∉ before ∧ (bytesOf before).length < s.explen.toNat ∧
       ticksOf before + 1 = window s) :=
  ⟨⟨opened_inv .scan 0 0 (by simp), by decide⟩, ⟨opened_inv .fixed 2 4 (by decide), by decide⟩⟩

/-- A receive that timed out on its first tick. -/
def timedOut : State := { State.reset with st := .fail, err := some .readTimeout, tmr := 1 }

theorem timedOut_inv : BlockInv timedOut where
  errIffFail := by decide
  wptrInBuffer := by decide
  idleIsClear := by decide
  doneHoldsFrame := by intro e; cases e
  recvIsOpen := by intro e; cases e
  timeoutHasNoLength := by decide
  badFrameHasLength := by intro _ e; rcases e with e | e <;> cases e
  txHasRoom := by decide
  txHoldsFrame := by intro e; cases e
  statusHighBits := by decide
  capLegal := by decide
  cellsCanonical := by intro b; cases b <;> rfl
  cellsInBuffer := by intro b i v e; cases b <;> cases e
  receivedWritten := by intro i e; exact absurd e (Nat.not_lt_zero i)
  commandWritten := by intro i e; exact absurd e (Nat.not_lt_zero i)
  fixedLengthAhead := by intro e; cases e
  scanSawNoTerminator := by intro e; cases e
  zeroLimitTmr := by intro e; cases e
  flenInBuffer := by decide
  failHasNoPayload := by decide
  crcoutEscaped := by decide

theorem test_witness_TerminalResultLasts :
    let is : List Instr := [.tick, .rxByte 0x28, .setTlimit 9]
    BlockInv timedOut ∧ Terminal timedOut ∧ .rst ∉ is ∧ ∀ m, .rxStart m ∉ is :=
  ⟨timedOut_inv, .inr rfl, by decide, by intro m; simp⟩

/-- The addresses where the rows of the map meet, a cell with a value at the last index of each window. -/
theorem test_witness_RdAddressMap :
    (0x000A ≤ (0x000A : Word).toNat ∧ (0x000A : Word).toNat ≤ 0x0FFF) ∧
    (0x000A ≤ (0x0FFF : Word).toNat ∧ (0x0FFF : Word).toNat ≤ 0x0FFF) ∧
    ((0x10FF : Word).toNat = 0x1000 + 255 ∧ 255 < State.reset.cfg.bufCap ∧
      ({ State.reset with buf := [⟨255, 0x41⟩] } : State).cell .buf 255 = some 0x41) ∧
    ((0x1100 : Word).toNat = 0x1000 + 256 ∧ State.reset.cfg.bufCap ≤ 256) ∧
    ((0x1FFF : Word).toNat = 0x1000 + 0xFFF ∧ State.reset.cfg.bufCap ≤ 0xFFF) ∧
    ((0x2000 : Word).toNat = 0x2000 + 0 ∧ 0 < State.reset.cfg.bufCap ∧
      ({ State.reset with txbuf := [⟨0, 0x51⟩] } : State).cell .txbuf 0 = some 0x51) ∧
    ((0x2FFF : Word).toNat = 0x2000 + 0xFFF ∧ State.reset.cfg.bufCap ≤ 0xFFF) ∧
    0x3000 ≤ (0x3000 : Word).toNat := by decide

theorem test_witness_RepeatedRdAgrees :
    ({ State.reset with inputs :=
        [.cycle ⟨some 0xE1000, none, false⟩, .cycle ⟨some 0xE1000, none, false⟩] } : State).inputs =
      .cycle ⟨some (encode (.rd 0x1000)), none, false⟩ ::
        .cycle ⟨some (encode (.rd 0x1000)), none, false⟩ :: [] := by decide

theorem test_witness_StepKeepsInvariant :
    BlockInv timedOut ∧ step timedOut = .next timedOut := ⟨timedOut_inv, rfl⟩

theorem test_witness_ResetMeetsInvariant : (Config.mk 4).wellFormed ∧ (Config.mk 4096).wellFormed := by decide

theorem test_witness_StepNeverStops : BlockInv timedOut := timedOut_inv

/-- A pointer beyond the buffer in each unit, and that TX_END then answers no next state. -/
theorem test_witness_ExecStopsOnlyOutsideBuffers :
    ((received .scan 0 257 []).st = .recv ∧ (received .scan 0 257 []).wptr.toNat > (received .scan 0 257 []).cfg.bufCap) ∧
    (let s : State := { State.reset with txlen := 257 }
     s.txrdy = false ∧ s.txerr = false ∧ s.txlen.toNat + 3 > s.cfg.bufCap) ∧
    ∀ t, exec .txEnd { State.reset with txlen := 257 } ≠ .next t := by
  refine ⟨by decide, by decide, ?_⟩
  intro t h
  have e := exec_effect .txEnd _ t h
  rcases e with ⟨h1, -⟩ | ⟨-, h1, -⟩ | ⟨-, -, h1, -⟩ <;> revert h1 <;> decide

theorem test_witness_OnlyListedEventsWriteRegisters :
    exec .tick State.reset = .next State.reset ∧ mayWrite .acc .tick = false ∧ mayWrite .txlen .tick = false ∧
    .tick ≠ Instr.rst ∧ ∀ a, .tick ≠ Instr.rd a :=
  ⟨rfl, rfl, rfl, by decide, by intro a; simp⟩

theorem test_witness_BuffersHaveOneWriter :
    exec .crcClr State.reset = .next State.reset ∧ (∀ b, .crcClr ≠ Instr.rxByte b) ∧
    (∀ b, .crcClr ≠ Instr.txPut b) ∧ .crcClr ≠ Instr.txEnd :=
  ⟨rfl, by intro b; simp, by intro b; simp, by decide⟩

theorem test_witness_StickyFlagsStay :
    .txClr ≠ Instr.rst ∧ exec .txClr { State.reset with seq := true, ill := true } =
      .next { State.reset with seq := true, ill := true } := ⟨by decide, rfl⟩

theorem test_witness_SequenceErrorsAreTheListed :
    sequenceError (.rxStart 1) { State.reset with explen := 3 } = true ∧
    sequenceError (.rxStart 1) { State.reset with explen := 257 } = true ∧
    sequenceError (.rxStart 0) (received .scan 0 0 []) = true ∧
    sequenceError .txEnd { State.reset with txrdy := true } = true ∧
    (sequenceError (.rxStart 1) { State.reset with explen := 4 } = false ∧
      (nextOf (exec (.rxStart 1) { State.reset with explen := 4 })).isSome = true) := by decide

/-- Each edge of the table changes `ST`. -/
theorem test_witness_StFollowsTransitionTable :
    (nextOf (exec .rst (received .scan 0 0 []))).map (·.st) = some .idle ∧
    (nextOf (exec (.rxStart 0) State.reset)).map (·.st) = some .recv ∧
    (nextOf (exec (.rxStart 1) { State.reset with explen := 4 })).map (·.st) = some .recv ∧
    (nextOf (exec (.rxByte 0x0D) (received .scan 0 4 bytesOfB))).map (·.st) = some .done ∧
    (nextOf (exec (.rxByte 0x0D) (received .scan 0 1 bytesOfB))).map (·.st) = some .fail ∧
    (nextOf (exec .tick (received .scan 0 0 []))).map (·.st) = some .fail := by decide

theorem test_witness_ParameterNeverChanges : step State.reset = .next State.reset := rfl

end Sys2Proof.Tests
end

section
/-!
PROOFS. The buffers and the RD address map (20_memory.md): what RD answers at each row of the map, and which events
leave a buffer as it was.
-/

namespace Sys2Proof.Machine

/-! ### The address map of RD -/

/-- RD answers in every state, and only `RDATA` moves (44_host_access.md R142). -/
theorem exec_rd (a : Word) (s : State) : exec (.rd a) s = .next { s with rdata := readAddress a s } := rfl

/-- The ten register numbers are 0 to 9 (10_state.md R11). -/
theorem regOfNumber_eq_none (n : Nat) (h : 10 ≤ n) : regOfNumber n = none := by
  obtain ⟨k, rfl⟩ := Nat.exists_eq_add_of_le' h
  rfl

/-- Below 0x1000, an address that is no register number reads as 0. -/
theorem readAddress_noRegister (a : Word) (s : State) (h : a.toNat < 0x1000) (hr : regOfNumber a.toNat = none) :
    readAddress a s = 0 := by
  simp only [readAddress, if_pos h, hr]

/-- The number of a register reads as the register. -/
theorem readAddress_register (a : Word) (r : Reg) (s : State) (hr : regOfNumber a.toNat = some r) :
    readAddress a s = readReg r s := by
  have h : a.toNat < 10 := by
    by_contra h
    rw [regOfNumber_eq_none a.toNat (by omega)] at hr
    cases hr
  simp only [readAddress, if_pos (show a.toNat < 0x1000 by omega), hr]

/-- From 0x1000 the map shows `BUF`. -/
theorem readAddress_buf (a : Word) (i : Nat) (s : State) (ha : a.toNat = 0x1000 + i) (hi : i < 0x1000) :
    readAddress a s = readWindow .buf i s := by
  simp only [readAddress]
  rw [if_neg (by omega), if_pos (by omega), ha, Nat.add_sub_cancel_left]

/-- From 0x2000 the map shows `TXBUF`. -/
theorem readAddress_txbuf (a : Word) (i : Nat) (s : State) (ha : a.toNat = 0x2000 + i) (hi : i < 0x1000) :
    readAddress a s = readWindow .txbuf i s := by
  simp only [readAddress]
  rw [if_neg (by omega), if_neg (by omega), if_pos (by omega), ha, Nat.add_sub_cancel_left]

/-- From 0x3000 every address reads as 0. -/
theorem readAddress_above (a : Word) (s : State) (h : 0x3000 ≤ a.toNat) : readAddress a s = 0 := by
  simp only [readAddress]
  rw [if_neg (by omega), if_neg (by omega), if_neg (by omega)]

/-- RD of a register number. -/
theorem exec_rd_register (a : Word) (r : Reg) (s : State) (hr : regOfNumber a.toNat = some r) :
    exec (.rd a) s = .next { s with rdata := readReg r s } := by
  rw [exec_rd, readAddress_register a r s hr]

/-- RD of an address whose value is 0. -/
theorem exec_rd_zero (a : Word) (s : State) (h : readAddress a s = 0) :
    exec (.rd a) s = .next { s with rdata := 0x0000 } := by
  rw [exec_rd, h]

/-- RD of index `i` of a buffer window: 0 from `BUF_CAP` on, below it a byte, the cell's own if it was ever written
(20_memory.md R41, R49). -/
theorem exec_rd_window (b : Buffer) (a : Word) (i : Nat) (s : State) (h : readAddress a s = readWindow b i s) :
    (s.cfg.bufCap ≤ i → exec (.rd a) s = .next { s with rdata := 0x0000 }) ∧
    (i < s.cfg.bufCap → ∃ v : Byte, exec (.rd a) s = .next { s with rdata := v.setWidth 16 } ∧
      ∀ x, s.cell b i = some x → v = x) := by
  constructor
  · intro hi
    exact exec_rd_zero a s (h.trans (if_neg (by omega)))
  · intro hi
    have hv : readAddress a s = (memRead b i s).setWidth 16 := h.trans (if_pos hi)
    exact ⟨memRead b i s, by rw [exec_rd, hv], memRead_of_cell s b i⟩

/-- Settles O43, row by row of the map: the ten registers, the gap above them, the two windows, the addresses above. -/
theorem rdAddressMap : Obligations.RdAddressMap := by
  intro s
  refine ⟨exec_rd_register 0x0000 .status s rfl, exec_rd_register 0x0001 .acc s rfl,
    exec_rd_register 0x0002 .crcout s rfl, exec_rd_register 0x0003 .wptr s rfl,
    exec_rd_register 0x0004 .flen s rfl, exec_rd_register 0x0005 .paylen s rfl,
    exec_rd_register 0x0006 .tmr s rfl, exec_rd_register 0x0007 .tlimit s rfl,
    exec_rd_register 0x0008 .explen s rfl, exec_rd_register 0x0009 .txlen s rfl, ?gap, ?buf, ?txbuf, ?above⟩
  case gap =>
    intro a hlo hhi
    exact exec_rd_zero a s (readAddress_noRegister a s (by omega) (regOfNumber_eq_none a.toNat hlo))
  case buf =>
    intro a i ha hi
    exact exec_rd_window .buf a i s (readAddress_buf a i s ha hi)
  case txbuf =>
    intro a i ha hi
    exact exec_rd_window .txbuf a i s (readAddress_txbuf a i s ha hi)
  case above =>
    intro a h
    exact exec_rd_zero a s (readAddress_above a s h)

/-! ### The writers of the buffers -/

/-- Only RX_BYTE writes `BUF` (20_memory.md R45). -/
theorem exec_keeps_buf (i : Instr) (s t : State) (h : exec i s = .next t) (hi : ∀ b, i ≠ .rxByte b) :
    t.buf = s.buf := by
  have e := exec_effect i s t h
  cases i with
  | rxByte b => exact absurd rfl (hi b)
  | nop | rst | crcClr | crcByte b | crcFin | txClr | rd a => obtain rfl := e; rfl
  | txPut b => obtain ⟨-, rfl⟩ | ⟨-, -, rfl⟩ | ⟨-, -, -, rfl⟩ | ⟨-, -, -, rfl⟩ := e <;> rfl
  | txEnd => obtain ⟨-, rfl⟩ | ⟨-, -, rfl⟩ | ⟨-, -, -, rfl⟩ := e <;> rfl
  | setTlimit v | setExplen v => obtain ⟨-, rfl⟩ | ⟨-, rfl⟩ := e <;> rfl
  | rxStart m => obtain ⟨-, rfl⟩ | ⟨-, -, -, rfl⟩ | ⟨-, -, rfl⟩ := e <;> rfl
  | tick => obtain ⟨-, rfl⟩ | ⟨-, -, rfl⟩ | ⟨-, -, rfl⟩ := e <;> rfl

/-- Only TX_PUT and TX_END write `TXBUF` (20_memory.md R45); a frame that RX_BYTE ends is judged in `BUF`. -/
theorem exec_keeps_txbuf (i : Instr) (s t : State) (h : exec i s = .next t) (hp : ∀ b, i ≠ .txPut b)
    (he : i ≠ .txEnd) : t.txbuf = s.txbuf := by
  have e := exec_effect i s t h
  cases i with
  | txPut b => exact absurd rfl (hp b)
  | txEnd => exact absurd rfl he
  | nop | rst | crcClr | crcByte b | crcFin | txClr | rd a => obtain rfl := e; rfl
  | setTlimit v | setExplen v => obtain ⟨-, rfl⟩ | ⟨-, rfl⟩ := e <;> rfl
  | rxStart m => obtain ⟨-, rfl⟩ | ⟨-, -, -, rfl⟩ | ⟨-, -, rfl⟩ := e <;> rfl
  | tick => obtain ⟨-, rfl⟩ | ⟨-, -, rfl⟩ | ⟨-, -, rfl⟩ := e <;> rfl
  | rxByte b =>
    obtain ⟨-, rfl⟩ | ⟨-, -, rfl⟩ | ⟨-, -, -, rfl⟩ | ⟨-, -, -, hf⟩ := e
    · rfl
    · rfl
    · rfl
    · obtain ⟨ht, -⟩ := finish_frame _ _ _ hf
      rw [ht]; rfl

/-- Settles O53: an event that is no writer of a buffer leaves the buffer, and so each of its cells. -/
theorem buffersHaveOneWriter : Obligations.BuffersHaveOneWriter := by
  intro i s t h
  exact ⟨fun hi j => cell_congr t s .buf j (exec_keeps_buf i s t h hi),
    fun hp he j => cell_congr t s .txbuf j (exec_keeps_txbuf i s t h hp he)⟩

end Sys2Proof.Machine
end

section
/-!
PROOFS. The expansions of the pseudo-instructions: one equation per pseudo-instruction.
-/

namespace Sys2Proof.Machine

/-! ### Pseudo-instructions -/

/-- `CRC16 s` (30_encoding.md R70). -/
@[simp] theorem expandPseudo_crc16 (s : List Byte) :
    expandPseudo (.crc16 s) = [.crcClr] ++ s.map .crcByte ++ [.crcFin] := rfl

/-- `SEND s` (30_encoding.md R70). -/
@[simp] theorem expandPseudo_send (s : List Byte) :
    expandPseudo (.send s) = [.txClr] ++ s.map .txPut ++ [.txEnd] := rfl

/-- `FEED b1 b2 ...` (30_encoding.md R70). -/
@[simp] theorem expandPseudo_feed (bytes : List Byte) : expandPseudo (.feed bytes) = bytes.map .rxByte := rfl

/-- `WAIT n` (30_encoding.md R70). -/
@[simp] theorem expandPseudo_wait (n : Nat) : expandPseudo (.wait n) = List.replicate n .tick := rfl

/-- `RECV_SCAN t` (30_encoding.md R70). -/
@[simp] theorem expandPseudo_recvScan (t : Word) : expandPseudo (.recvScan t) = [.setTlimit t, .rxStart 0] := rfl

/-- `RECV_FIXED t, n` (30_encoding.md R70). -/
@[simp] theorem expandPseudo_recvFixed (t n : Word) :
    expandPseudo (.recvFixed t n) = [.setTlimit t, .setExplen n, .rxStart 1] := rfl

/-- Settles O59: the six equations of `expandPseudo`, one per pseudo-instruction. -/
theorem pseudoExpansions : Obligations.PseudoExpansions :=
  ⟨expandPseudo_crc16, expandPseudo_send, expandPseudo_feed, expandPseudo_wait, expandPseudo_recvScan,
    expandPseudo_recvFixed⟩

end Sys2Proof.Machine
end

section
/-!
PROOFS. The two fields of an event word and its operand of form byte, as the decoder reads them (30_encoding.md R63,
R64).
-/

namespace Sys2Proof

/-- `op = w[19:16]` (30_encoding.md R63). -/
@[simp] theorem opField_eventWord (op : BitVec 4) (arg : Word) : opField (eventWord op arg) = op :=
  BitVec.extractLsb'_append_eq_left

/-- `arg = w[15:0]` (30_encoding.md R63). -/
@[simp] theorem argField_eventWord (op : BitVec 4) (arg : Word) : argField (eventWord op arg) = arg :=
  BitVec.extractLsb'_append_eq_right

/-- The operand of form byte is read back (30_encoding.md R64). -/
@[simp] theorem byteOperand_byteArg (b : Byte) : byteOperand (byteArg b) = b := by
  simp [byteOperand, byteArg, BitVec.extractLsb'_setWidth_of_le]

/-- A byte operand passes the test of the must-be-zero bits (30_encoding.md R64, R65). -/
@[simp] theorem decodeForm_byteArg (op : BitVec 4) (b : Byte) (i : Instr) :
    decodeForm .byte op (byteArg b) i = .ok i :=
  if_pos (Laws.byteArg_and_mustBeZero b)

/-- An event word of form byte, written as its three bit groups (30_encoding.md R63, R64). -/
theorem append_zero_append_byte (op : BitVec 4) (b : Byte) : op ++ 0x00#8 ++ b = eventWord op (byteArg b) := by
  have harg : 0x00#8 ++ b = byteArg b := (BitVec.setWidth_eq_append (by decide)).symm
  rw [BitVec.append_assoc, harg]
  rfl

/-- CRC_BYTE `b` is what its word decodes to (30_encoding.md R65, R66). -/
theorem decode_crcByte (b : Byte) : decode (eventWord 0x3 (byteArg b)) = .ok (.crcByte b) := by
  simp [decode]

end Sys2Proof
end

section
/-!
PROOFS. The escape of the CRC bytes and the events of CRCGEN (40_crc.md R86, R90 to R92).
-/

namespace Sys2Proof.Machine

/-! ### The escape -/

/-- The three reserved values (30_encoding.md R62). -/
theorem reservedByte_iff (x : Byte) : reservedByte x = true ↔ x = 0x28 ∨ x = 0x0D ∨ x = 0x0A := by
  simp [reservedByte, or_assoc]

/-- A byte that is not reserved is its own escape (40_crc.md R86). -/
theorem esc_of_not_reserved (x : Byte) (h : reservedByte x = false) : esc x = x := by
  refine if_neg ?_
  rw [← reservedByte_iff, h]
  decide

/-- No escape is reserved: the successors of the three reserved values are not (40_crc.md R86). -/
theorem esc_not_reserved (x : Byte) : reservedByte (esc x) = false := by
  cases h : reservedByte x with
  | true => obtain rfl | rfl | rfl := (reservedByte_iff x).mp h <;> decide
  | false => rw [esc_of_not_reserved x h, h]

/-- The escape acts on the high byte alone (40_crc.md R86). -/
@[simp] theorem highByte_escapePair (r : Word) : highByte (escapePair r) = esc (highByte r) := highByte_append _ _

/-- The escape acts on the low byte alone (40_crc.md R86). -/
@[simp] theorem lowByte_escapePair (r : Word) : lowByte (escapePair r) = esc (lowByte r) := lowByte_append _ _

/-- Settles O17: `esc` is the identity off the reserved values and its image meets none of them, so it is idempotent. -/
theorem escapeOfCrcBytes : Obligations.EscapeOfCrcBytes :=
  ⟨by decide, by decide, by decide, esc_of_not_reserved, fun x => esc_of_not_reserved _ (esc_not_reserved x),
    by decide, by decide, by decide, fun r => ⟨highByte_escapePair r, lowByte_escapePair r⟩⟩

/-! ### The events -/

/-- CRC_CLR (40_crc.md R90). -/
theorem exec_crcClr (s : State) : exec .crcClr s = .next { s with acc := 0x0000 } := rfl

/-- CRC_BYTE (40_crc.md R91). -/
theorem exec_crcByte (b : Byte) (s : State) : exec (.crcByte b) s = .next { s with acc := byteStep s.acc b } := rfl

/-- CRC_FIN (40_crc.md R92). -/
theorem exec_crcFin (s : State) : exec .crcFin s = .next { s with crcout := escapePair s.acc } := rfl

/-- Leading zero bytes do not change a zero accumulator (40_crc.md R91). -/
theorem byteStep_zero_zero : byteStep 0x0000 0x00 = 0x0000 := by decide

/-- A zero byte on a zero accumulator changes nothing (40_crc.md R91). -/
theorem exec_crcByte_zero (s : State) (h : s.acc = 0x0000) : exec (.crcByte 0x00) s = .next s := by
  rw [exec_crcByte, h, byteStep_zero_zero, ← h]

/-- Settles O20: the word, and the effect in every state. -/
theorem crcClrResult : Obligations.CrcClrResult := ⟨rfl, exec_crcClr⟩

/-- Settles O21: the word of every byte, the effect in every state (`byteStep` is the two nibble steps, high nibble
first), and the corner case of two zeros. -/
theorem crcByteResult : Obligations.CrcByteResult := by
  refine ⟨?word, exec_crcByte, exec_crcByte_zero⟩
  intro b
  exact (congrArg decode (append_zero_append_byte 0x3 b)).trans (decode_crcByte b)

/-- Settles O22: the word, and the effect in every state (`escapePair` is the pair of the two escapes). -/
theorem crcFinResult : Obligations.CrcFinResult := ⟨rfl, exec_crcFin⟩

end Sys2Proof.Machine
end

section
/-!
PROOFS. The frame encoder (41_tx_encoder.md): the function `encode`, the meaning of TX_CLR, TX_PUT and TX_END in each of
their cases, and which events leave the encoder as it was.
-/

namespace Sys2Proof

/-- TX_PUT `b` is what its word decodes to (30_encoding.md R65, R66). -/
theorem decode_txPut (b : Byte) : decode (eventWord 0x6 (byteArg b)) = .ok (.txPut b) := by
  simp [decode]

end Sys2Proof

namespace Sys2Proof.Machine

/-! ### The function `encode` -/

/-- A command whose frame exceeds the capacity is no command (41_tx_encoder.md R100). -/
theorem encodeCommand_eq_none (cap : Nat) (c : List Byte) (h : c.length + 3 > cap) : encodeCommand cap c = none :=
  if_pos h

/-- A command whose frame fits gives the frame (41_tx_encoder.md R100). -/
theorem encodeCommand_eq_some (cap : Nat) (c : List Byte) (h : c.length + 3 ≤ cap) :
    encodeCommand cap c = some (outboundFrame c) :=
  if_neg (Nat.not_lt.mpr h)

/-- An outbound frame is the command, the CRC pair and the terminator (30_encoding.md R60). -/
theorem outboundFrame_eq_append (c : List Byte) :
    outboundFrame c = c ++ [highByte (crc16 c), lowByte (crc16 c)] ++ [0x0D] :=
  (List.append_assoc c [highByte (crc16 c), lowByte (crc16 c)] [0x0D]).symm

/-- Settles O23: the two cases of the capacity test, and the empty command at the least capacity that admits it. -/
theorem encodeContract : Obligations.EncodeContract := by
  refine ⟨encodeCommand_eq_none, ?fits, by decide⟩
  intro cap c h
  rw [encodeCommand_eq_some cap c h, outboundFrame_eq_append]

/-! ### The events, case by case -/

/-- TX_CLR is accepted in every state (41_tx_encoder.md R101). -/
theorem exec_txClr (s : State) : exec .txClr s = .next { s with txlen := 0, txrdy := false, txerr := false } := rfl

/-- TX_PUT after a finished frame is refused (41_tx_encoder.md R102). -/
theorem exec_txPut_refused (b : Byte) (s : State) (hr : s.txrdy = true) :
    exec (.txPut b) s = .next (refuseEvent s) :=
  if_pos hr

/-- TX_PUT in error discards its byte (41_tx_encoder.md R102). -/
theorem exec_txPut_discarded (b : Byte) (s : State) (hr : s.txrdy = false) (he : s.txerr = true) :
    exec (.txPut b) s = .next s := by
  simp [exec, execTxPut, hr, he]

/-- TX_PUT of a byte that leaves no room for the trailer raises `InvalidCommand` (41_tx_encoder.md R102). -/
theorem exec_txPut_overflow (b : Byte) (s : State) (hr : s.txrdy = false) (he : s.txerr = false)
    (hc : s.txlen.toNat + 4 > s.cfg.bufCap) : exec (.txPut b) s = .next (raiseInvalidCommand s) := by
  simp [exec, execTxPut, hr, he, hc]

/-- TX_PUT of a byte that fits stores it (41_tx_encoder.md R102). -/
theorem exec_txPut_stored (b : Byte) (s : State) (hr : s.txrdy = false) (he : s.txerr = false)
    (hc : s.txlen.toNat + 4 ≤ s.cfg.bufCap) :
    exec (.txPut b) s = .next { s with txlen := s.txlen + 1, txbuf := Memory.set s.txbuf s.txlen.toNat b } := by
  have hroom : s.txlen.toNat < s.cfg.bufCap := by omega
  simp [exec, execTxPut, hr, he, Nat.not_lt.mpr hc, storeTx_next b s hroom]

/-- TX_END after a finished frame is refused (41_tx_encoder.md R103). -/
theorem exec_txEnd_refused (s : State) (hr : s.txrdy = true) : exec .txEnd s = .next (refuseEvent s) :=
  if_pos hr

/-- Settles O25: the word of every byte, and the four cases of R102 in the order of its tests. -/
theorem txPutResult : Obligations.TxPutResult := by
  refine ⟨?word, fun b s => ⟨exec_txPut_refused b s, exec_txPut_discarded b s, exec_txPut_overflow b s, ?stored⟩⟩
  case word =>
    intro b
    exact (congrArg decode (append_zero_append_byte 0x6 b)).trans (decode_txPut b)
  case stored =>
    intro hr he hc
    exact ⟨_, exec_txPut_stored b s hr he hc, rfl, fun j => memory_get_set s.txbuf s.txlen.toNat j b⟩

/-! ### What leaves the encoder as it was -/

/-- Only RST and the three events of the encoder write `TXRDY`, `TXERR` and `TXLEN` (10_state.md R11, R27, R28). -/
theorem exec_keeps_encoder (i : Instr) (s t : State) (h : exec i s = .next t) (hrst : i ≠ .rst) (hclr : i ≠ .txClr)
    (hput : ∀ b, i ≠ .txPut b) (hend : i ≠ .txEnd) :
    t.txrdy = s.txrdy ∧ t.txerr = s.txerr ∧ t.txlen = s.txlen := by
  have e := exec_effect i s t h
  cases i with
  | rst => exact absurd rfl hrst
  | txClr => exact absurd rfl hclr
  | txPut b => exact absurd rfl (hput b)
  | txEnd => exact absurd rfl hend
  | nop | crcClr | crcByte b | crcFin | rd a => obtain rfl := e; exact ⟨rfl, rfl, rfl⟩
  | setTlimit v | setExplen v => obtain ⟨-, rfl⟩ | ⟨-, rfl⟩ := e <;> exact ⟨rfl, rfl, rfl⟩
  | rxStart m => obtain ⟨-, rfl⟩ | ⟨-, -, -, rfl⟩ | ⟨-, -, rfl⟩ := e <;> exact ⟨rfl, rfl, rfl⟩
  | tick => obtain ⟨-, rfl⟩ | ⟨-, -, rfl⟩ | ⟨-, -, rfl⟩ := e <;> exact ⟨rfl, rfl, rfl⟩
  | rxByte b =>
    obtain ⟨-, rfl⟩ | ⟨-, -, rfl⟩ | ⟨-, -, -, rfl⟩ | ⟨-, -, -, hf⟩ := e
    · exact ⟨rfl, rfl, rfl⟩
    · exact ⟨rfl, rfl, rfl⟩
    · exact ⟨rfl, rfl, rfl⟩
    · obtain ⟨ht, -⟩ := finish_frame _ _ _ hf
      rw [ht]; exact ⟨rfl, rfl, rfl⟩

/-- A finished frame is frozen until TX_CLR or RST: TX_PUT and TX_END are refused, and no other event writes it
(41_tx_encoder.md R101). -/
theorem exec_keeps_finishedFrame (i : Instr) (s t : State) (h : exec i s = .next t) (hclr : i ≠ .txClr)
    (hrst : i ≠ .rst) (hr : s.txrdy = true) : t.txrdy = true ∧ t.txlen = s.txlen ∧ t.txbuf = s.txbuf := by
  by_cases hput : ∃ b, i = .txPut b
  · obtain ⟨b, rfl⟩ := hput
    obtain rfl := Host.Outcome.next.inj ((exec_txPut_refused b s hr).symm.trans h)
    exact ⟨hr, rfl, rfl⟩
  · by_cases hend : i = .txEnd
    · subst hend
      obtain rfl := Host.Outcome.next.inj ((exec_txEnd_refused s hr).symm.trans h)
      exact ⟨hr, rfl, rfl⟩
    · have hput' : ∀ b, i ≠ .txPut b := not_exists.mp hput
      obtain ⟨hrdy, -, hlen⟩ := exec_keeps_encoder i s t h hrst hclr hput' hend
      exact ⟨hrdy.trans hr, hlen, exec_keeps_txbuf i s t h hput' hend⟩

/-- `TXERR` stays set until TX_CLR or RST (41_tx_encoder.md R101, 10_state.md R28). -/
theorem exec_keeps_txerr (i : Instr) (s t : State) (h : exec i s = .next t) (hclr : i ≠ .txClr) (hrst : i ≠ .rst)
    (he : s.txerr = true) : t.txerr = true := by
  have e := exec_effect i s t h
  by_cases hput : ∃ b, i = .txPut b
  · obtain ⟨b, rfl⟩ := hput
    obtain ⟨-, rfl⟩ | ⟨-, -, rfl⟩ | ⟨-, -, -, rfl⟩ | ⟨-, hne, -, -⟩ := e
    · exact he
    · exact he
    · rfl
    · simp [he] at hne
  · by_cases hend : i = .txEnd
    · subst hend
      obtain ⟨-, rfl⟩ | ⟨-, -, rfl⟩ | ⟨-, hne, -, -⟩ := e
      · exact he
      · exact he
      · simp [he] at hne
    · obtain ⟨-, herr, -⟩ := exec_keeps_encoder i s t h hrst hclr (not_exists.mp hput) hend
      exact herr.trans he

/-- Settles O24: the word, the effect in every state, and the two flags under every other event. -/
theorem txClrResult : Obligations.TxClrResult :=
  ⟨rfl, exec_txClr, fun i s t h hclr hrst =>
    ⟨exec_keeps_finishedFrame i s t h hclr hrst, exec_keeps_txerr i s t h hclr hrst⟩⟩

end Sys2Proof.Machine
end

section
/-!
PROOFS. The operands of form half and of form bit, as the decoder reads them (30_encoding.md R63, R64).
-/

namespace Sys2Proof

/-- An operand of form half has no must-be-zero bit to fail the test (30_encoding.md R64, R65). -/
@[simp] theorem decodeForm_half (op : BitVec 4) (arg : Word) (i : Instr) : decodeForm .half op arg i = .ok i :=
  if_pos BitVec.and_zero

/-- The operand of form bit is read back (30_encoding.md R64). -/
@[simp] theorem bitOperand_bitArg (m : BitVec 1) : bitOperand (bitArg m) = m := by
  simp [bitOperand, bitArg, BitVec.extractLsb'_setWidth_of_le]

/-- A bit operand leaves its must-be-zero bits zero (30_encoding.md R64). -/
theorem bitArg_and_mustBeZero : ∀ m : BitVec 1, bitArg m &&& 0xFFFE = 0 := by decide

/-- A bit operand passes the test of the must-be-zero bits (30_encoding.md R64, R65). -/
@[simp] theorem decodeForm_bitArg (op : BitVec 4) (m : BitVec 1) (i : Instr) :
    decodeForm .bit op (bitArg m) i = .ok i :=
  if_pos (bitArg_and_mustBeZero m)

/-- An event word of form bit, written as its three bit groups (30_encoding.md R63, R64). -/
theorem append_zero_append_bit (op : BitVec 4) (m : BitVec 1) : op ++ 0x0000#15 ++ m = eventWord op (bitArg m) := by
  have harg : 0x0000#15 ++ m = bitArg m := (BitVec.setWidth_eq_append (by decide)).symm
  rw [BitVec.append_assoc, harg]
  rfl

/-- SET_TLIMIT `v` is what its word decodes to (30_encoding.md R65, R66). -/
theorem decode_setTlimit (v : Word) : decode (eventWord 0x8 v) = .ok (.setTlimit v) := by
  simp [decode]

/-- SET_EXPLEN `v` is what its word decodes to (30_encoding.md R65, R66). -/
theorem decode_setExplen (v : Word) : decode (eventWord 0x9 v) = .ok (.setExplen v) := by
  simp [decode]

/-- RX_START `m` is what its word decodes to (30_encoding.md R65, R66). -/
theorem decode_rxStart (m : BitVec 1) : decode (eventWord 0xA (bitArg m)) = .ok (.rxStart m) := by
  simp [decode]

end Sys2Proof
end

section
/-!
PROOFS. The synchronizer and parser (42_rx_framer.md): the meaning of SET_TLIMIT, SET_EXPLEN and RX_START in each of
their cases, the RX_BYTE that is dropped, the TICK that times out, and the ways out of `RECV`.
-/

namespace Sys2Proof.Machine

/-! ### Setting the window and the length -/

/-- SET_TLIMIT is refused during a receive (42_rx_framer.md R111). -/
theorem exec_setTlimit_refused (v : Word) (s : State) (hs : s.st = .recv) :
    exec (.setTlimit v) s = .next (refuseEvent s) :=
  if_pos hs

/-- SET_TLIMIT outside a receive stores its operand (42_rx_framer.md R111). -/
theorem exec_setTlimit_stored (v : Word) (s : State) (hs : s.st ≠ .recv) :
    exec (.setTlimit v) s = .next { s with tlimit := v } :=
  if_neg hs

/-- SET_EXPLEN is refused during a receive (42_rx_framer.md R112). -/
theorem exec_setExplen_refused (v : Word) (s : State) (hs : s.st = .recv) :
    exec (.setExplen v) s = .next (refuseEvent s) :=
  if_pos hs

/-- SET_EXPLEN outside a receive stores its operand, whatever it is (42_rx_framer.md R112). -/
theorem exec_setExplen_stored (v : Word) (s : State) (hs : s.st ≠ .recv) :
    exec (.setExplen v) s = .next { s with explen := v } :=
  if_neg hs

/-- Settles O29: the word of every value, and the two cases of R112. -/
theorem setExplenResult : Obligations.SetExplenResult :=
  ⟨decode_setExplen, fun v s => ⟨exec_setExplen_refused v s, exec_setExplen_stored v s⟩⟩

/-! ### Opening a receive -/

/-- The lengths with which a fixed-mode receive may start (42_rx_framer.md R113). -/
theorem explenUsable_iff (s : State) :
    explenUsable s = true ↔ 4 ≤ s.explen.toNat ∧ s.explen.toNat ≤ s.cfg.bufCap := by
  simp [explenUsable]

/-- The lengths with which a fixed-mode receive may not start (42_rx_framer.md R113). -/
theorem explenUsable_eq_false_iff (s : State) :
    explenUsable s = false ↔ s.explen.toNat < 4 ∨ s.explen.toNat > s.cfg.bufCap := by
  rw [← Bool.not_eq_true, explenUsable_iff]
  omega

/-- RX_START is refused during a receive (42_rx_framer.md R113). -/
theorem exec_rxStart_refused (m : BitVec 1) (s : State) (hs : s.st = .recv) :
    exec (.rxStart m) s = .next (refuseEvent s) :=
  if_pos hs

/-- RX_START 1 is refused when `EXPLEN` is no usable length (42_rx_framer.md R113). -/
theorem exec_rxStart_unusable (m : BitVec 1) (s : State) (hs : s.st ≠ .recv) (hm : m = 1)
    (he : explenUsable s = false) : exec (.rxStart m) s = .next (refuseEvent s) :=
  (if_neg hs).trans (if_pos ⟨hm, he⟩)

/-- Every other RX_START opens a receive (42_rx_framer.md R113). -/
theorem exec_rxStart_opened (m : BitVec 1) (s : State) (hs : s.st ≠ .recv) (he : m = 1 → explenUsable s = true) :
    exec (.rxStart m) s = .next (openReceive m s) := by
  have hno : ¬ (m = 1 ∧ explenUsable s = false) := fun ⟨hm, hf⟩ => by simp [he hm] at hf
  exact (if_neg hs).trans (if_neg hno)

/-! ### Bytes and ticks -/

/-- RX_BYTE outside a receive is dropped (42_rx_framer.md R118). -/
theorem exec_rxByte_outside (b : Byte) (s : State) (hs : s.st ≠ .recv) : exec (.rxByte b) s = .next s :=
  if_pos hs

/-- RX_BYTE into a full buffer is dropped (42_rx_framer.md R117). -/
theorem exec_rxByte_full (b : Byte) (s : State) (hs : s.st = .recv) (hw : s.wptr.toNat = s.cfg.bufCap) :
    exec (.rxByte b) s = .next s :=
  (if_neg (not_not.mpr hs)).trans (if_pos hw)

/-- Settles O31: the two ways RX_BYTE drops its byte. -/
theorem rxByteIsDropped : Obligations.RxByteIsDropped :=
  fun b s => ⟨exec_rxByte_outside b s, exec_rxByte_full b s⟩

/-- TICK outside a receive changes nothing (42_rx_framer.md R119). -/
theorem exec_tick_outside (s : State) (hs : s.st ≠ .recv) : exec .tick s = .next s :=
  if_pos hs

/-- TICK raises `ReadTimeout` when the counter reaches the window (42_rx_framer.md R119). -/
theorem exec_tick_timeout (s : State) (hs : s.st = .recv) (ht : s.tlimit.toNat ≤ (nextTmr s).toNat) :
    exec .tick s = .next (raiseRx .readTimeout { s with tmr := nextTmr s }) :=
  (if_neg (not_not.mpr hs)).trans (if_pos ht)

/-- A TICK never leaves the counter at 0 (42_rx_framer.md R119). -/
theorem one_le_nextTmr (s : State) : 1 ≤ (nextTmr s).toNat := by
  rw [nextTmr_toNat]
  omega

/-- Settles O28: the word of every value, the two cases of R111, and windows 0 and 1 under a TICK: outside a receive it
changes nothing, and in a receive the counter is at least 1 after it, so both windows time out. -/
theorem setTlimitResult : Obligations.SetTlimitResult := by
  refine ⟨decode_setTlimit, fun v s => ⟨exec_setTlimit_refused v s, exec_setTlimit_stored v s⟩, ?zeroActsAsOne⟩
  intro s
  by_cases hs : s.st = .recv
  · exact ⟨raiseRx .readTimeout { s with tmr := nextTmr s },
      exec_tick_timeout { s with tlimit := 0 } hs (Nat.zero_le _),
      exec_tick_timeout { s with tlimit := 1 } hs (one_le_nextTmr _)⟩
  · exact ⟨s, exec_tick_outside _ hs, exec_tick_outside _ hs⟩

/-! ### The ways out of a receive -/

/-- Only RST, a TICK that times out and an RX_BYTE that ends the frame leave `RECV` (42_rx_framer.md R113, R120). -/
theorem exec_leaves_recv (i : Instr) (s t : State) (h : exec i s = .next t) (hs : s.st = .recv) (ht : t.st ≠ .recv) :
    i = .rst ∨ (i = .tick ∧ t.err = some .readTimeout) ∨ ∃ b, i = .rxByte b ∧ terminates b s := by
  have e := exec_effect i s t h
  cases i with
  | rst => exact .inl rfl
  | tick =>
    obtain ⟨hne, -⟩ | ⟨-, -, rfl⟩ | ⟨-, -, rfl⟩ := e
    · exact absurd hs hne
    · exact absurd hs ht
    · exact .inr (.inl ⟨rfl, rfl⟩)
  | rxByte b =>
    obtain ⟨hne, -⟩ | ⟨-, -, rfl⟩ | ⟨-, -, -, rfl⟩ | ⟨-, -, hb, -⟩ := e
    · exact absurd hs hne
    · exact absurd hs ht
    · exact absurd hs ht
    · exact .inr (.inr ⟨b, rfl, hb⟩)
  | rxStart m =>
    obtain ⟨-, rfl⟩ | ⟨hne, -⟩ | ⟨hne, -⟩ := e
    · exact absurd hs ht
    · exact absurd hs hne
    · exact absurd hs hne
  | nop | crcClr | crcByte b | crcFin | txClr | rd a => obtain rfl := e; exact absurd hs ht
  | txPut b => obtain ⟨-, rfl⟩ | ⟨-, -, rfl⟩ | ⟨-, -, -, rfl⟩ | ⟨-, -, -, rfl⟩ := e <;> exact absurd hs ht
  | txEnd => obtain ⟨-, rfl⟩ | ⟨-, -, rfl⟩ | ⟨-, -, -, rfl⟩ := e <;> exact absurd hs ht
  | setTlimit v | setExplen v => obtain ⟨-, rfl⟩ | ⟨-, rfl⟩ := e <;> exact absurd hs ht

/-- Settles O30: the word of either mode, the four cases of R113 (both accepted ones are `openReceive` with the mode's
`strategyOf`), and the ways out of `RECV`. -/
theorem rxStartResult : Obligations.RxStartResult := by
  refine ⟨?word, fun m s => ⟨exec_rxStart_refused m s, ?unusable, ?fixed, ?scan⟩, exec_leaves_recv⟩
  case word =>
    intro m
    exact (congrArg decode (append_zero_append_bit 0xA m)).trans (decode_rxStart m)
  case unusable =>
    intro hs hm he
    exact exec_rxStart_unusable m s hs hm ((explenUsable_eq_false_iff s).mpr he)
  case fixed =>
    rintro hs rfl hlo hhi
    exact exec_rxStart_opened 1 s hs fun _ => (explenUsable_iff s).mpr ⟨hlo, hhi⟩
  case scan =>
    rintro hs rfl
    exact exec_rxStart_opened 0 s hs fun h => absurd h (by decide)

end Sys2Proof.Machine
end

section
/-!
PROOFS. The judgement of a frame (43_validator.md): the bytes of the frame as the validator reads them, and what the
RX_BYTE that ends it leaves.
-/

namespace Sys2Proof.Machine

/-! ### The bytes of a frame -/

/-- A byte of the first `n`. -/
theorem memReadFirst_getElem? (b : Buffer) (n i : Nat) (s : State) (h : i < n) :
    (memReadFirst b n s)[i]? = some (memRead b i s) := by
  simp [memReadFirst, h]

/-- The first bytes of the first `n`. -/
theorem memReadFirst_take (b : Buffer) (n m : Nat) (s : State) (h : m ≤ n) :
    (memReadFirst b n s).take m = memReadFirst b m s := by
  simp [memReadFirst, ← List.map_take, List.take_range, h]

/-- The start-marker test on the frame (43_validator.md R131). -/
theorem memRead_zero_eq_startMarker_iff (n : Nat) (s : State) (h : 0 < n) :
    memRead .buf 0 s = startMarker ↔ (memReadFirst .buf n s)[0]? = some 0x28 := by
  rw [memReadFirst_getElem? .buf n 0 s h, Option.some_inj, startMarker]

/-- The CRC test on the frame: the pair it carries is the CRC of the bytes before the pair (43_validator.md R133). -/
theorem crcMatches_iff (n : Nat) (s : State) (h : 4 ≤ n) :
    crcMatches n s = true ↔
      (memReadFirst .buf n s)[n - 3]? = some (highByte (crc16 ((memReadFirst .buf n s).take (n - 3)))) ∧
      (memReadFirst .buf n s)[n - 2]? = some (lowByte (crc16 ((memReadFirst .buf n s).take (n - 3)))) := by
  rw [memReadFirst_getElem? .buf n (n - 3) s (by omega), memReadFirst_getElem? .buf n (n - 2) s (by omega),
    memReadFirst_take .buf n (n - 3) s (by omega), Option.some_inj, Option.some_inj]
  exact (Bool.and_eq_true_iff).trans (and_congr decide_eq_true_iff decide_eq_true_iff)

/-! ### The byte that ends the frame -/

/-- The cells of `BUF` after RX_BYTE has stored its byte (42_rx_framer.md R114). -/
theorem cell_afterStore (b : Byte) (s : State) (j : Nat) :
    (afterStore b s).cell .buf j = if j = s.wptr.toNat then some b else s.cell .buf j :=
  memory_get_set s.buf s.wptr.toNat j b

/-- The frame after RX_BYTE has stored its byte: the bytes received before, and the byte. -/
theorem memReadFirst_afterStore (b : Byte) (s : State) :
    memReadFirst .buf (s.wptr.toNat + 1) (afterStore b s) = memReadFirst .buf s.wptr.toNat s ++ [b] := by
  have hold : memReadFirst .buf s.wptr.toNat (afterStore b s) = memReadFirst .buf s.wptr.toNat s :=
    memReadFirst_congr _ _ _ _ fun i hi =>
      memRead_congr _ _ _ _ ((cell_afterStore b s i).trans (if_neg (Nat.ne_of_lt hi))) rfl
  have hnew : memRead .buf s.wptr.toNat (afterStore b s) = b :=
    memRead_of_cell _ _ _ _ ((cell_afterStore b s _).trans (if_pos rfl))
  rw [memReadFirst_succ, hold, hnew]

/-- The RX_BYTE that ends a frame stores its byte and runs `finish` (42_rx_framer.md R114, 43_validator.md R130). -/
theorem exec_rxByte_terminated (b : Byte) (s : State) (hs : s.st = .recv) (hw : s.wptr.toNat < s.cfg.bufCap)
    (ht : terminates b s) : exec (.rxByte b) s = finish (s.wptr + 1) (afterStore b s) :=
  (execRxByte_stored b s hs hw).trans (if_pos ht)

/-- Counting a byte inside a legal buffer does not wrap `WPTR` (00_scope.md R4). -/
theorem wptr_add_one_toNat (s : State) (hc : s.cfg.wellFormed) (hw : s.wptr.toNat < s.cfg.bufCap) :
    (s.wptr + 1).toNat = s.wptr.toNat + 1 := by
  obtain ⟨-, hcap⟩ := hc
  exact BitVec.toNat_add_of_lt (show s.wptr.toNat + 1 < 2 ^ 16 by omega)

/-- Settles O33: the terminated frame is always judged, and the ways of `finish` are the clauses of R130, once its
tests are read on the frame. -/
theorem rxByteJudgesFrame : Obligations.RxByteJudgesFrame := by
  intro b s hc hs hw hb
  have hlen := wptr_add_one_toNat s hc hw
  obtain ⟨t, ht⟩ := finish_completes (s.wptr + 1) (afterStore b s) (by rw [hlen]; exact hw)
  obtain ⟨hframe, -⟩ := finish_frame _ _ _ ht
  refine ⟨t, (exec_rxByte_terminated b s hs hw hb).trans ht, hframe, ?judged⟩
  have hmark := memRead_zero_eq_startMarker_iff (s.wptr.toNat + 1) (afterStore b s) (Nat.succ_pos _)
  have hjudged := finish_eq_next _ _ _ ht
  rw [hlen] at hjudged
  rw [← memReadFirst_afterStore]
  simp only [memReadFirst_length]
  obtain ⟨hm, rfl⟩ | ⟨hm, hbad, rfl⟩ | ⟨hm, hlong, hcrc, -, rfl⟩ := hjudged
  case judged.inl =>
    rw [if_pos (mt hmark.mpr hm)]
    exact ⟨rfl, rfl, rfl, cell_afterStore b s⟩
  case judged.inr.inl =>
    rw [if_neg (not_not.mpr (hmark.mp hm))]
    by_cases hshort : s.wptr.toNat + 1 < 4
    · rw [if_pos hshort]
      exact ⟨rfl, rfl, rfl, cell_afterStore b s⟩
    · have hcrc := Bool.eq_false_iff.mp (hbad.resolve_left hshort)
      rw [if_neg hshort, if_neg (mt (crcMatches_iff _ _ (Nat.not_lt.mp hshort)).mpr hcrc)]
      exact ⟨rfl, rfl, rfl, cell_afterStore b s⟩
  case judged.inr.inr =>
    rw [if_neg (not_not.mpr (hmark.mp hm)), if_neg (Nat.not_lt.mpr hlong),
      if_pos ((crcMatches_iff _ _ hlong).mp hcrc)]
    refine ⟨rfl, rfl, ?paylen, fun j => ?cell⟩
    case paylen =>
      exact (BitVec.toNat_sub_of_le (show 4 ≤ (s.wptr + 1).toNat by omega)).trans (by rw [hlen]; rfl)
    case cell =>
      rw [← cell_afterStore, ← hlen]
      exact memory_get_set (afterStore b s).buf _ j 0x00

end Sys2Proof.Machine
end

section
/-!
PROOFS. The host's access to the unit (44_host_access.md): the meaning of NOP.
-/

namespace Sys2Proof.Machine

/-- NOP answers the state it was given, `RDATA` included (44_host_access.md R140). -/
theorem exec_nop (s : State) : exec .nop s = .next s := rfl

/-- Settles O40: the word, and the effect in every state. -/
theorem nopResult : Obligations.NopResult := ⟨rfl, exec_nop⟩

end Sys2Proof.Machine
end

section
/-!
PROOFS. The sequence errors (60_exceptions.md R158): when an event is on the list, that a listed event sets `SEQ` and
nothing else, and that an unlisted one leaves `SEQ` as it was.
-/

namespace Sys2Proof.Machine

/-! ### The list -/

/-- SET_TLIMIT is on the list during a receive (60_exceptions.md R158). -/
theorem sequenceError_setTlimit_iff (v : Word) (s : State) : sequenceError (.setTlimit v) s = true ↔ s.st = .recv :=
  decide_eq_true_iff

/-- SET_EXPLEN is on the list during a receive (60_exceptions.md R158). -/
theorem sequenceError_setExplen_iff (v : Word) (s : State) : sequenceError (.setExplen v) s = true ↔ s.st = .recv :=
  decide_eq_true_iff

/-- RX_START is on the list during a receive, and in fixed mode with no usable length (60_exceptions.md R158). -/
theorem sequenceError_rxStart_iff (m : BitVec 1) (s : State) :
    sequenceError (.rxStart m) s = true ↔ s.st = .recv ∨ (m = 1 ∧ explenUsable s = false) := by
  simp [sequenceError, explenUsable_eq_false_iff]

/-! ### Listed and unlisted events -/

/-- An event on the list is refused (60_exceptions.md R158). -/
theorem exec_sequenceError (i : Instr) (s : State) (hl : sequenceError i s = true) :
    exec i s = .next (refuseEvent s) := by
  cases i with
  | setTlimit v => exact exec_setTlimit_refused v s ((sequenceError_setTlimit_iff v s).mp hl)
  | setExplen v => exact exec_setExplen_refused v s ((sequenceError_setExplen_iff v s).mp hl)
  | rxStart m =>
    by_cases hs : s.st = .recv
    · exact exec_rxStart_refused m s hs
    · obtain ⟨hm, he⟩ := ((sequenceError_rxStart_iff m s).mp hl).resolve_left hs
      exact exec_rxStart_unusable m s hs hm he
  | txPut b => exact exec_txPut_refused b s hl
  | txEnd => exact exec_txEnd_refused s hl
  | nop | rst | crcClr | crcByte b | crcFin | txClr | rxByte b | tick | rd a => exact absurd hl Bool.false_ne_true

/-- An event that is not on the list leaves `SEQ`, unless it is RST (60_exceptions.md R158, 10_state.md R30). -/
theorem exec_keeps_seq (i : Instr) (s t : State) (h : exec i s = .next t) (hl : ¬ sequenceError i s = true)
    (hrst : i ≠ .rst) : t.seq = s.seq := by
  have e := exec_effect i s t h
  cases i with
  | rst => exact absurd rfl hrst
  | nop | crcClr | crcByte b | crcFin | txClr | rd a => obtain rfl := e; rfl
  | txPut b =>
    obtain ⟨hr, -⟩ | ⟨-, -, rfl⟩ | ⟨-, -, -, rfl⟩ | ⟨-, -, -, rfl⟩ := e
    · exact absurd hr hl
    · rfl
    · rfl
    · rfl
  | txEnd =>
    obtain ⟨hr, -⟩ | ⟨-, -, rfl⟩ | ⟨-, -, -, rfl⟩ := e
    · exact absurd hr hl
    · rfl
    · rfl
  | setTlimit v =>
    obtain ⟨hs, -⟩ | ⟨-, rfl⟩ := e
    · exact absurd ((sequenceError_setTlimit_iff v s).mpr hs) hl
    · rfl
  | setExplen v =>
    obtain ⟨hs, -⟩ | ⟨-, rfl⟩ := e
    · exact absurd ((sequenceError_setExplen_iff v s).mpr hs) hl
    · rfl
  | rxStart m =>
    obtain ⟨hs, -⟩ | ⟨-, hm, he, -⟩ | ⟨-, -, rfl⟩ := e
    · exact absurd ((sequenceError_rxStart_iff m s).mpr (.inl hs)) hl
    · exact absurd ((sequenceError_rxStart_iff m s).mpr (.inr ⟨hm, he⟩)) hl
    · rfl
  | tick => obtain ⟨-, rfl⟩ | ⟨-, -, rfl⟩ | ⟨-, -, rfl⟩ := e <;> rfl
  | rxByte b =>
    obtain ⟨-, rfl⟩ | ⟨-, -, rfl⟩ | ⟨-, -, -, rfl⟩ | ⟨-, -, -, hf⟩ := e
    · rfl
    · rfl
    · rfl
    · obtain ⟨ht, -⟩ := finish_frame _ _ _ hf
      rw [ht]; rfl

/-- Settles O55: a listed event is refused (`refuseEvent` sets `SEQ` and nothing else), and an unlisted one leaves
`SEQ`. -/
theorem sequenceErrorsAreTheListed : Obligations.SequenceErrorsAreTheListed := by
  intro i s
  exact ⟨exec_sequenceError i s, fun t hl hrst h => exec_keeps_seq i s t h (Bool.eq_false_iff.mp hl) hrst⟩

end Sys2Proof.Machine
end

section
/-!
PROOFS. Reset and power-on (70_reset_and_hazards.md R170, R172): what the registers hold after any reset, that the
power-on state is such a state, and that no cell has a value in it.
-/

namespace Sys2Proof.Machine

/-! ### The registers after a reset -/

/-- Every field of `STATUS` has code 0 after a reset (10_state.md R37). -/
@[simp] theorem statusWord_resetRegisters (s : State) : statusWord (resetRegisters s) = 0x0000 := by
  have hfields : statusWord (resetRegisters s) = statusWord State.reset := rfl
  rw [hfields]
  decide

/-- Every numbered register reads 0 after a reset (10_state.md R37). -/
@[simp] theorem readReg_resetRegisters (r : Reg) (s : State) : readReg r (resetRegisters s) = 0x0000 := by
  cases r with
  | status => exact statusWord_resetRegisters s
  | acc | crcout | wptr | flen | paylen | tmr | tlimit | explen | txlen => rfl

/-! ### Power-on -/

/-- At power-on the registers stand as any reset leaves them (70_reset_and_hazards.md R172). -/
theorem resetRegisters_reset : resetRegisters State.reset = State.reset := rfl

/-- Nothing has written a cell of either buffer at power-on (70_reset_and_hazards.md R172, 20_memory.md R49). -/
@[simp] theorem cell_reset (b : Buffer) (i : Nat) : State.reset.cell b i = none := by
  cases b with
  | buf | txbuf => exact memory_get_nil i

/-- Settles O47: the registers are those of any reset, and the buffers are empty. -/
theorem powerOnState : Obligations.PowerOnState := by
  have hreg (r : Reg) : readReg r State.reset = 0x0000 := by
    rw [← resetRegisters_reset, readReg_resetRegisters]
  exact ⟨hreg .status, hreg, resetRegisters_rdata State.reset, cell_reset⟩

end Sys2Proof.Machine
end

section
/-!
PROOFS. The decoder and the encoder invert each other, and a word is an event when it matches a row of the opcode map
(30_encoding.md R63 to R67).
-/

namespace Sys2Proof

/-! ### The word of an event -/

/-- RX_BYTE `b` is what its word decodes to (30_encoding.md R65, R66). -/
theorem decode_rxByte (b : Byte) : decode (eventWord 0xB (byteArg b)) = .ok (.rxByte b) := by
  simp [decode]

/-- RD `a` is what its word decodes to (30_encoding.md R65, R66). -/
theorem decode_rd (a : Word) : decode (eventWord 0xE a) = .ok (.rd a) := by
  simp [decode]

/-- An event is what its word decodes to (30_encoding.md R65, R66). -/
@[simp] theorem decode_encode (i : Instr) : decode (encode i) = .ok i := by
  cases i with
  | nop | rst | crcClr | crcFin | txClr | txEnd | tick => rfl
  | crcByte b => exact decode_crcByte b
  | txPut b => exact decode_txPut b
  | setTlimit v => exact decode_setTlimit v
  | setExplen v => exact decode_setExplen v
  | rxStart m => exact decode_rxStart m
  | rxByte b => exact decode_rxByte b
  | rd a => exact decode_rd a

/-- Settles O2: every event is what its word decodes to. -/
theorem decodeEncodeRoundTrip : Obligations.DecodeEncodeRoundTrip := decode_encode

/-- Settles O1: the decoder runs on each written-out word. -/
theorem sampleWordsDecode : Obligations.SampleWordsDecode :=
  ⟨rfl, rfl, rfl, rfl, rfl, rfl, rfl, rfl, rfl, rfl, rfl, rfl, rfl, rfl, rfl, rfl, rfl, rfl, rfl, rfl, rfl, rfl, rfl⟩

/-! ### The operand of a word that decodes -/

/-- A word is its two fields (30_encoding.md R63). -/
theorem eventWord_opField_argField (w : EventWord) : eventWord (opField w) (argField w) = w :=
  (BitVec.extractLsb'_append_extractLsb'_eq_extractLsb' rfl).trans BitVec.extractLsb'_eq_self

/-- A form accepts an operand when its must-be-zero bits are zero (30_encoding.md R65). -/
theorem decodeForm_eq_ok (f : Form) (op : BitVec 4) (arg : Word) (i j : Instr) :
    decodeForm f op arg i = .ok j ↔ arg &&& mustBeZeroBits f = 0 ∧ i = j := by
  unfold decodeForm
  split <;> simp_all

/-- An operand whose bits from `k` on are zero is its low `k` bits. -/
theorem setWidth_extractLsb'_of_and_eq_zero (k : Nat) (arg : Word) (h : arg &&& (BitVec.allOnes 16 <<< k) = 0) :
    (arg.extractLsb' 0 k).setWidth 16 = arg := by
  ext i hi
  rw [BitVec.getElem_setWidth, BitVec.getLsbD_extractLsb', Nat.zero_add, BitVec.getLsbD_eq_getElem hi]
  by_cases hk : i < k
  · simp [hk]
  · have hmask : (BitVec.allOnes 16 <<< k)[i] = true := by
      rw [BitVec.getElem_shiftLeft, BitVec.getElem_allOnes]
      simp [hk]
    have hbit : (arg &&& (BitVec.allOnes 16 <<< k))[i] = (0 : Word)[i] := by rw [h]
    rw [BitVec.getElem_and, hmask, Bool.and_true] at hbit
    simp [hk, hbit]

/-- An operand of form none is 0 (30_encoding.md R64). -/
theorem eq_zero_of_form_none (arg : Word) (h : arg &&& mustBeZeroBits .none = 0) : 0 = arg :=
  h.symm.trans BitVec.and_allOnes

/-- An operand of form byte is its byte with the must-be-zero bits (30_encoding.md R64). -/
theorem byteArg_byteOperand (arg : Word) (h : arg &&& mustBeZeroBits .byte = 0) : byteArg (byteOperand arg) = arg :=
  setWidth_extractLsb'_of_and_eq_zero 8 arg h

/-- An operand of form bit is its bit with the must-be-zero bits (30_encoding.md R64). -/
theorem bitArg_bitOperand (arg : Word) (h : arg &&& mustBeZeroBits .bit = 0) : bitArg (bitOperand arg) = arg :=
  setWidth_extractLsb'_of_and_eq_zero 1 arg h

/-- A word that decodes is the word of its event: the cases are the opcodes, grouped by their form
(30_encoding.md R65, R66). -/
theorem encode_of_decode (w : EventWord) (i : Instr) (h : decode w = .ok i) : encode i = w := by
  obtain ⟨op, arg, rfl⟩ : ∃ op arg, eventWord op arg = w := ⟨_, _, eventWord_opField_argField w⟩
  simp only [decode, opField_eventWord, argField_eventWord] at h
  split at h
  case h_1 | h_2 | h_3 | h_5 | h_6 | h_8 | h_13 =>
    obtain ⟨hz, rfl⟩ := (decodeForm_eq_ok _ _ _ _ _).mp h
    exact congrArg (eventWord _) (eq_zero_of_form_none arg hz)
  case h_4 | h_7 | h_12 =>
    obtain ⟨hz, rfl⟩ := (decodeForm_eq_ok _ _ _ _ _).mp h
    exact congrArg (eventWord _) (byteArg_byteOperand arg hz)
  case h_11 =>
    obtain ⟨hz, rfl⟩ := (decodeForm_eq_ok _ _ _ _ _).mp h
    exact congrArg (eventWord _) (bitArg_bitOperand arg hz)
  case h_9 | h_10 | h_14 =>
    obtain ⟨-, rfl⟩ := (decodeForm_eq_ok _ _ _ _ _).mp h
    rfl
  case h_15 => cases h

/-- Settles O3: a word is its opcode and an operand, and the must-be-zero test leaves one operand for the event. -/
theorem encodeDecodeRoundTrip : Obligations.EncodeDecodeRoundTrip := encode_of_decode

/-! ### The rows of the map -/

/-- The form of an event's operand (30_encoding.md R64, R66). -/
def formOf : Instr → Form
  | .nop | .rst | .crcClr | .crcFin | .txClr | .txEnd | .tick => .none
  | .crcByte _ | .txPut _ | .rxByte _ => .byte
  | .rxStart _ => .bit
  | .setTlimit _ | .setExplen _ | .rd _ => .half

/-- The mask of a row is the opcode and the must-be-zero bits of the form (30_encoding.md R66). -/
theorem rowOf_mask (i : Instr) : (rowOf i).mask = eventWord 0xF (mustBeZeroBits (formOf i)) := by
  cases i <;> simp only [rowOf, formOf, mustBeZeroBits] <;> decide

/-- The match of a row is the opcode of its events, with every bit of the operand 0 (30_encoding.md R66). -/
theorem rowOf_pattern (i : Instr) : (rowOf i).pattern = eventWord (opField (encode i)) 0 := by
  cases i <;> simp only [encode, opField_eventWord] <;> rfl

/-- A word matches an event's row when it has the event's opcode and passes the test of its form
(30_encoding.md R65, R66). -/
theorem matches_rowOf_iff (w : EventWord) (i : Instr) :
    w &&& (rowOf i).mask = (rowOf i).pattern ↔
      opField w = opField (encode i) ∧ argField w &&& mustBeZeroBits (formOf i) = 0 := by
  conv_lhs => rw [← eventWord_opField_argField w, rowOf_mask, rowOf_pattern, Laws.eventWord_and]
  have hop : opField w &&& 0xF = opField w := BitVec.and_allOnes
  rw [hop]
  constructor
  · intro h
    exact ⟨by simpa using congrArg opField h, by simpa using congrArg argField h⟩
  · rintro ⟨h1, h2⟩
    rw [h1, h2]

/-- Every event has a row in the map (30_encoding.md R66). -/
theorem rowOf_mem_opcodeMap (i : Instr) : rowOf i ∈ opcodeMap := by
  cases i <;> simp [opcodeMap, rowOf]

/-- The rows of the map are rows of events (30_encoding.md R66). -/
theorem exists_rowOf_of_mem (r : Row) (h : r ∈ opcodeMap) : ∃ i, r = rowOf i := by
  obtain ⟨i, -, rfl⟩ := List.mem_map.mp h
  exact ⟨i, rfl⟩

/-- An event's word lies in its own row (30_encoding.md R66). -/
theorem encode_matches_rowOf (i : Instr) : encode i &&& (rowOf i).mask = (rowOf i).pattern := by
  cases i with
  | nop => exact Laws.EncodesInRow.nop
  | rst => exact Laws.EncodesInRow.rst
  | crcClr => exact Laws.EncodesInRow.crcClr
  | crcByte b => exact Laws.EncodesInRow.crcByte b
  | crcFin => exact Laws.EncodesInRow.crcFin
  | txClr => exact Laws.EncodesInRow.txClr
  | txPut b => exact Laws.EncodesInRow.txPut b
  | txEnd => exact Laws.EncodesInRow.txEnd
  | setTlimit v => exact Laws.EncodesInRow.setTlimit v
  | setExplen v => exact Laws.EncodesInRow.setExplen v
  | rxStart m => exact Laws.EncodesInRow.rxStart m
  | rxByte b => exact Laws.EncodesInRow.rxByte b
  | tick => exact Laws.EncodesInRow.tick
  | rd a => exact Laws.EncodesInRow.rd a

/-- A word that matches a row decodes (30_encoding.md R65, R66). -/
theorem decode_of_matches_rowOf (w : EventWord) (i : Instr) (h : w &&& (rowOf i).mask = (rowOf i).pattern) :
    ∃ j, decode w = .ok j := by
  obtain ⟨hop, harg⟩ := (matches_rowOf_iff w i).mp h
  cases i <;>
    exact ⟨_, by
      simp only [decode, hop, encode, opField_eventWord]
      exact (decodeForm_eq_ok _ _ _ _ _).mpr ⟨harg, rfl⟩⟩

/-- Settles O4: a word that decodes is its event's word and so lies in the event's row, and a word that matches a row
decodes. -/
theorem decodeFollowsTheMap : Obligations.DecodeFollowsTheMap := by
  have hrow (w : EventWord) (i : Instr) (h : decode w = .ok i) : w &&& (rowOf i).mask = (rowOf i).pattern :=
    encode_of_decode w i h ▸ encode_matches_rowOf i
  refine ⟨fun w i h => ⟨rowOf_mem_opcodeMap i, hrow w i h⟩, fun w => ⟨?noRow, ?noEvent⟩⟩
  case noRow =>
    rintro ⟨e, he⟩ r hr hm
    obtain ⟨i, rfl⟩ := exists_rowOf_of_mem r hr
    obtain ⟨j, hj⟩ := decode_of_matches_rowOf w i hm
    cases he.symm.trans hj
  case noEvent =>
    intro hno
    cases h : decode w with
    | error e => exact ⟨e, rfl⟩
    | ok i => exact absurd (hrow w i h) (hno _ (rowOf_mem_opcodeMap i))

/-- Rows of one opcode are one row (30_encoding.md R66). -/
theorem rowOf_eq_of_opcode_eq (i j : Instr) (h : opField (encode i) = opField (encode j)) : rowOf i = rowOf j := by
  have hmap : ∀ r ∈ opcodeMap, ∀ q ∈ opcodeMap, opField r.pattern = opField q.pattern → r = q := by decide
  refine hmap _ (rowOf_mem_opcodeMap i) _ (rowOf_mem_opcodeMap j) ?_
  rw [rowOf_pattern, rowOf_pattern, opField_eventWord, opField_eventWord, h]

/-- Settles O5: a word that matches a row has the row's opcode, and no two rows share one. -/
theorem opcodeRowsAreDisjoint : Obligations.OpcodeRowsAreDisjoint := by
  intro w r1 r2 h1 h2 hw1 hw2
  obtain ⟨i, rfl⟩ := exists_rowOf_of_mem r1 h1
  obtain ⟨j, rfl⟩ := exists_rowOf_of_mem r2 h2
  obtain ⟨hi, -⟩ := (matches_rowOf_iff w i).mp hw1
  obtain ⟨hj, -⟩ := (matches_rowOf_iff w j).mp hw2
  exact rowOf_eq_of_opcode_eq i j (hi.symm.trans hj)

end Sys2Proof
end

section
/-!
PROOFS. One step (00_scope.md R7): what it does for each thing the ports can present, and the converse, every way a step
that answers a next state got there.
-/

namespace Sys2Proof.Machine

/-! ### The step for each event of the ports -/

/-- With no input left a step answers the same state (00_scope.md R7). -/
theorem step_of_no_input (s : State) (h : s.inputs = []) : step s = .next s := by
  simp [step, h, nextEvent]

/-- A host word that decodes is executed (30_encoding.md R71). -/
theorem step_of_host (s : State) (w : EventWord) (rx : Option Byte) (tick : Bool) (rest : List Input) (i : Instr)
    (h : s.inputs = .cycle ⟨some w, rx, tick⟩ :: rest) (hd : decode w = .ok i) :
    step s = exec i (consume i (putBack ⟨none, rx, tick⟩ rest) s) := by
  simp [step, h, nextEvent, runEvent, hd]

/-- A host word that does not decode sets `ILL` (30_encoding.md R67). -/
theorem step_of_illegal (s : State) (w : EventWord) (rx : Option Byte) (tick : Bool) (rest : List Input) (e : Illegal)
    (h : s.inputs = .cycle ⟨some w, rx, tick⟩ :: rest) (hd : decode w = .error e) :
    step s = .next (illegalWord (advance (putBack ⟨none, rx, tick⟩ rest) (s.draws + 1) s)) := by
  simp [step, h, nextEvent, runEvent, hd]

/-- A line byte is executed as RX_BYTE (30_encoding.md R71). -/
theorem step_of_line (s : State) (b : Byte) (tick : Bool) (rest : List Input)
    (h : s.inputs = .cycle ⟨none, some b, tick⟩ :: rest) :
    step s = exec (.rxByte b) (consume (.rxByte b) (putBack ⟨none, none, tick⟩ rest) s) := by
  simp [step, h, nextEvent, runEvent]

/-- A tick is executed as TICK (30_encoding.md R71). -/
theorem step_of_timebase (s : State) (rest : List Input) (h : s.inputs = .cycle ⟨none, none, true⟩ :: rest) :
    step s = exec .tick (consume .tick rest s) := by
  simp [step, h, nextEvent, runEvent]

/-- A cycle without an event moves the input on (00_scope.md R7). -/
theorem step_of_quiet (s : State) (rest : List Input) (h : s.inputs = .cycle ⟨none, none, false⟩ :: rest) :
    step s = .next (advance rest s.draws s) := by
  simp [step, h, nextEvent, runEvent]

/-- The reset pin resets the registers (70_reset_and_hazards.md R170). -/
theorem step_of_pin (s : State) (rest : List Input) (h : s.inputs = .resetPin :: rest) :
    step s = .next (resetRegisters (advance rest (s.draws + 1) s)) := by
  simp [step, h, nextEvent, runEvent]

/-- Settles O6: `consume` is the update that the statement writes out. -/
theorem stepRunsHostWord : Obligations.StepRunsHostWord := step_of_host

/-- Settles O7: `consume` is the update that the statement writes out. -/
theorem stepRunsLineByteAndTick : Obligations.StepRunsLineByteAndTick := ⟨step_of_line, step_of_timebase⟩

/-- What is left of a cycle that still presents an event is put back. -/
theorem putBack_of_ne (c : PortCycle) (rest : List Input) (h : c ≠ ⟨none, none, false⟩) :
    putBack c rest = .cycle c :: rest :=
  if_neg h

/-- Settles O8: after the word the byte and the tick are put back, after the byte the tick. -/
theorem sameCycleOrder : Obligations.SameCycleOrder := by
  intro w b rest
  refine ⟨?host, ?line, rfl⟩
  case host => rw [nextEvent, putBack_of_ne _ _ (by simp)]
  case line => rw [nextEvent, putBack_of_ne _ _ (by simp)]

/-- Settles O9: `illegalWord` sets `ILL`, and `advance` moves the input and the draw. -/
theorem illegalWordSetsIllOnly : Obligations.IllegalWordSetsIllOnly := by
  intro s w rx tick rest e h hd
  exact ⟨_, step_of_illegal s w rx tick rest e h hd, rfl⟩

/-- Settles O10: the empty input and the quiet cycle. -/
theorem noEventChangesNothing : Obligations.NoEventChangesNothing := ⟨step_of_no_input, step_of_quiet⟩

/-- Settles O11: the pin and RST are both `resetRegisters`. -/
theorem resetPinActsAsRst : Obligations.ResetPinActsAsRst := by
  intro s rest h
  exact ⟨_, step_of_pin s rest h, rfl, rfl⟩

/-- Settles O44: the second RD runs on a state that differs from the first only in `RDATA` and the input, and neither
the map nor the draw, which RD keeps, depends on those. -/
theorem repeatedRdAgrees : Obligations.RepeatedRdAgrees := by
  intro s a rest h
  have h1 := step_of_host s _ none false _ (.rd a) h (decode_encode (.rd a))
  refine ⟨_, _, h1, step_of_host _ _ none false rest (.rd a) rfl (decode_encode (.rd a)), rfl, rfl⟩

/-! ### What a step can do -/

/-- Everything a step can do, of the block's own state: an event, an illegal word, a reset, or nothing. -/
inductive StepEffect (s : State) : Result → Prop
  /-- There is no input. -/
  | idle : StepEffect s (.next s)
  /-- A word, a line byte or a tick is an event. -/
  | event (i : Instr) (rest : List Input) : StepEffect s (exec i (consume i rest s))
  /-- A word is illegal. -/
  | illegal (rest : List Input) : StepEffect s (.next (illegalWord (advance rest (s.draws + 1) s)))
  /-- The pin is low. -/
  | pin (rest : List Input) : StepEffect s (.next (resetRegisters (advance rest (s.draws + 1) s)))
  /-- A cycle presents no event. -/
  | quiet (rest : List Input) : StepEffect s (.next (advance rest s.draws s))

/-- A step does one of these things (00_scope.md R7). -/
theorem step_effect (s : State) : StepEffect s (step s) := by
  unfold step
  split
  · exact .idle
  · next e rest _ =>
    cases e with
    | host w =>
      simp only [runEvent]
      split
      · exact .event _ rest
      · exact .illegal rest
    | line b => exact .event (.rxByte b) rest
    | timebase => exact .event .tick rest
    | pin => exact .pin rest
    | quiet => exact .quiet rest

end Sys2Proof.Machine
end

section
/-!
PROOFS. What every event keeps: the parameter, the sticky flags, the registers it is not a writer of (10_state.md R11,
R29, R30, R38), and `ST` outside its table (42_rx_framer.md R120).
-/

namespace Sys2Proof.Machine

/-- No event writes the parameter, none but RST writes `ILL`, and none but RST and RD writes `RDATA`
(10_state.md R22, R29, R38). -/
theorem exec_keeps_cfg_ill_rdata (i : Instr) (s t : State) (h : exec i s = .next t) :
    t.cfg = s.cfg ∧ (i ≠ .rst → t.ill = s.ill ∧ ((∀ a, i ≠ .rd a) → t.rdata = s.rdata)) := by
  have e := exec_effect i s t h
  cases i with
  | rst => obtain rfl := e; exact ⟨rfl, fun hrst => absurd rfl hrst⟩
  | rd a => obtain rfl := e; exact ⟨rfl, fun _ => ⟨rfl, fun hrd => absurd rfl (hrd a)⟩⟩
  | nop | crcClr | crcByte b | crcFin | txClr => obtain rfl := e; exact ⟨rfl, fun _ => ⟨rfl, fun _ => rfl⟩⟩
  | txPut b =>
    obtain ⟨-, rfl⟩ | ⟨-, -, rfl⟩ | ⟨-, -, -, rfl⟩ | ⟨-, -, -, rfl⟩ := e <;>
      exact ⟨rfl, fun _ => ⟨rfl, fun _ => rfl⟩⟩
  | txEnd =>
    obtain ⟨-, rfl⟩ | ⟨-, -, rfl⟩ | ⟨-, -, -, rfl⟩ := e <;> exact ⟨rfl, fun _ => ⟨rfl, fun _ => rfl⟩⟩
  | setTlimit v | setExplen v => obtain ⟨-, rfl⟩ | ⟨-, rfl⟩ := e <;> exact ⟨rfl, fun _ => ⟨rfl, fun _ => rfl⟩⟩
  | rxStart m =>
    obtain ⟨-, rfl⟩ | ⟨-, -, -, rfl⟩ | ⟨-, -, rfl⟩ := e <;> exact ⟨rfl, fun _ => ⟨rfl, fun _ => rfl⟩⟩
  | tick => obtain ⟨-, rfl⟩ | ⟨-, -, rfl⟩ | ⟨-, -, rfl⟩ := e <;> exact ⟨rfl, fun _ => ⟨rfl, fun _ => rfl⟩⟩
  | rxByte b =>
    obtain ⟨-, rfl⟩ | ⟨-, -, rfl⟩ | ⟨-, -, -, rfl⟩ | ⟨-, -, -, hf⟩ := e
    · exact ⟨rfl, fun _ => ⟨rfl, fun _ => rfl⟩⟩
    · exact ⟨rfl, fun _ => ⟨rfl, fun _ => rfl⟩⟩
    · exact ⟨rfl, fun _ => ⟨rfl, fun _ => rfl⟩⟩
    · obtain ⟨ht, -⟩ := finish_frame _ _ _ hf
      rw [ht]; exact ⟨rfl, fun _ => ⟨rfl, fun _ => rfl⟩⟩

/-- No event writes the parameter (10_state.md R38). -/
theorem exec_keeps_cfg (i : Instr) (s t : State) (h : exec i s = .next t) : t.cfg = s.cfg :=
  (exec_keeps_cfg_ill_rdata i s t h).1

/-- Settles O57: no event writes the parameter, and the four other things a step can do do not either. -/
theorem parameterNeverChanges : Obligations.ParameterNeverChanges := by
  intro s t h
  have e := step_effect s
  rw [h] at e
  generalize hr : Host.Outcome.next t = r at e
  cases e with
  | event i rest => exact exec_keeps_cfg i (consume i rest s) t hr.symm
  | idle | illegal rest | pin rest | quiet rest => cases hr; rfl

/-- `SEQ` stays set until RST: a refusal sets it, and every other event leaves it (10_state.md R30). -/
theorem exec_keeps_set_seq (i : Instr) (s t : State) (h : exec i s = .next t) (hrst : i ≠ .rst)
    (hs : s.seq = true) : t.seq = true := by
  by_cases hl : sequenceError i s = true
  · cases (exec_sequenceError i s hl).symm.trans h
    rfl
  · exact (exec_keeps_seq i s t h hl hrst).trans hs

/-- Settles O54: every event but RST leaves `ILL`, and sets or leaves `SEQ`. -/
theorem stickyFlagsStay : Obligations.StickyFlagsStay :=
  fun i s t hrst h => ⟨((exec_keeps_cfg_ill_rdata i s t h).2 hrst).1, exec_keeps_set_seq i s t h hrst⟩

/-! ### The writers of the registers -/

/-- A register is left as it was by an event that the table does not list for it: for each way an event can go, the
registers the table does list for it drop out by `hr`, and the others are untouched (10_state.md R11). -/
theorem exec_keeps_reg (i : Instr) (s t : State) (h : exec i s = .next t) (r : Reg) (hr : mayWrite r i = false) :
    readReg r t = readReg r s := by
  have e := exec_effect i s t h
  cases i with
  | rst => cases r <;> cases hr
  | nop | rd a | crcClr | crcByte b | crcFin | txClr => obtain rfl := e; cases r <;> cases hr <;> rfl
  | txPut b =>
    obtain ⟨-, rfl⟩ | ⟨-, -, rfl⟩ | ⟨-, -, -, rfl⟩ | ⟨-, -, -, rfl⟩ := e <;> cases r <;> cases hr <;> rfl
  | txEnd => obtain ⟨-, rfl⟩ | ⟨-, -, rfl⟩ | ⟨-, -, -, rfl⟩ := e <;> cases r <;> cases hr <;> rfl
  | setTlimit v | setExplen v => obtain ⟨-, rfl⟩ | ⟨-, rfl⟩ := e <;> cases r <;> cases hr <;> rfl
  | rxStart m => obtain ⟨-, rfl⟩ | ⟨-, -, -, rfl⟩ | ⟨-, -, rfl⟩ := e <;> cases r <;> cases hr <;> rfl
  | tick => obtain ⟨-, rfl⟩ | ⟨-, -, rfl⟩ | ⟨-, -, rfl⟩ := e <;> cases r <;> cases hr <;> rfl
  | rxByte b =>
    obtain ⟨-, rfl⟩ | ⟨-, -, rfl⟩ | ⟨-, -, -, rfl⟩ | ⟨-, -, -, hf⟩ := e
    · rfl
    · rfl
    · cases r <;> cases hr <;> rfl
    · obtain ⟨ht, -⟩ := finish_frame _ _ _ hf
      rw [ht]; cases r <;> cases hr <;> rfl

/-- Settles O52: the table of writers for the numbered registers, RST and RD for `RDATA`. -/
theorem onlyListedEventsWriteRegisters : Obligations.OnlyListedEventsWriteRegisters :=
  fun i s t h =>
    ⟨exec_keeps_reg i s t h, fun hrst hrd => ((exec_keeps_cfg_ill_rdata i s t h).2 hrst).2 hrd⟩

/-! ### The transitions of `ST` -/

/-- The two operands of RX_START. -/
theorem bit_eq_zero_or_one (m : BitVec 1) : m = 0 ∨ m = 1 := by
  revert m; decide

/-- Settles O56: the ways of the events that move `ST` are the rows of R120, and in every other way `ST` stays. -/
theorem stFollowsTransitionTable : Obligations.StFollowsTransitionTable := by
  intro i s t h hst
  have e := exec_effect i s t h
  cases i with
  | rst => obtain rfl := e; exact .inl ⟨rfl, rfl, rfl⟩
  | rxStart m =>
    obtain ⟨-, rfl⟩ | ⟨-, -, -, rfl⟩ | ⟨hs, hu, rfl⟩ := e
    · exact absurd rfl hst
    · exact absurd rfl hst
    · obtain rfl | rfl := bit_eq_zero_or_one m
      · exact .inr (.inl ⟨rfl, hs, rfl, rfl⟩)
      · obtain ⟨hlo, hhi⟩ := (explenUsable_iff s).mp (hu rfl)
        exact .inr (.inr (.inl ⟨rfl, hs, hlo, hhi, rfl, rfl⟩))
  | rxByte b =>
    obtain ⟨-, rfl⟩ | ⟨-, -, rfl⟩ | ⟨-, -, -, rfl⟩ | ⟨hs, -, hb, hf⟩ := e
    · exact absurd rfl hst
    · exact absurd rfl hst
    · exact absurd rfl hst
    · obtain ⟨-, hend⟩ := finish_frame _ _ _ hf
      exact .inr (.inr (.inr (.inl ⟨b, rfl, hs, hb, hend⟩)))
  | tick =>
    obtain ⟨-, rfl⟩ | ⟨-, -, rfl⟩ | ⟨hs, ht, rfl⟩ := e
    · exact absurd rfl hst
    · exact absurd rfl hst
    · rw [nextTmr_toNat] at ht
      exact .inr (.inr (.inr (.inr ⟨rfl, hs, ht, rfl, rfl⟩)))
  | nop | crcClr | crcByte b | crcFin | txClr | rd a => obtain rfl := e; exact absurd rfl hst
  | txPut b => obtain ⟨-, rfl⟩ | ⟨-, -, rfl⟩ | ⟨-, -, -, rfl⟩ | ⟨-, -, -, rfl⟩ := e <;> exact absurd rfl hst
  | txEnd => obtain ⟨-, rfl⟩ | ⟨-, -, rfl⟩ | ⟨-, -, -, rfl⟩ := e <;> exact absurd rfl hst
  | setTlimit v | setExplen v => obtain ⟨-, rfl⟩ | ⟨-, rfl⟩ := e <;> exact absurd rfl hst

end Sys2Proof.Machine
end

section
/-!
PROOFS. Where an event stops (20_memory.md R46): only on a store outside a buffer, and never in a state that meets the
invariants.
-/

namespace Sys2Proof.Machine

/-- A store outside the buffer stops. -/
theorem memWrite_fault (b : Buffer) (i : Nat) (v : Byte) (s : State) (h : s.cfg.bufCap ≤ i) :
    memWrite b i v s = .fault (.noSuchCell b i) :=
  if_neg (Nat.not_lt.mpr h)

/-- RX_BYTE with `WPTR` beyond the buffer stops (log 5). -/
theorem exec_rxByte_fault (b : Byte) (s : State) (hs : s.st = .recv) (hw : s.wptr.toNat > s.cfg.bufCap) :
    exec (.rxByte b) s = .fault (.noSuchCell .buf s.wptr.toNat) := by
  have hne : s.wptr.toNat ≠ s.cfg.bufCap := by omega
  simp [exec, execRxByte, hs, hne, storeRx, memWrite_fault _ _ _ _ hw.le]

/-- A trailer that does not fit stops at its first byte outside the buffer (log 5). -/
theorem storeTxTrailer_fault (b0 b1 b2 : Byte) (s : State) (h : s.txlen.toNat + 3 > s.cfg.bufCap) :
    storeTxTrailer b0 b1 b2 s = .fault (.noSuchCell .txbuf (max s.txlen.toNat s.cfg.bufCap)) := by
  unfold storeTxTrailer
  by_cases h0 : s.txlen.toNat < s.cfg.bufCap
  · rw [memWrite_next _ _ _ _ h0, andThen_next]
    by_cases h1 : s.txlen.toNat + 1 < s.cfg.bufCap
    · rw [memWrite_next _ _ _ _ (by simpa using h1), andThen_next, memWrite_fault _ _ _ _ (by simp; omega),
        show max s.txlen.toNat s.cfg.bufCap = s.txlen.toNat + 2 by omega]
      rfl
    · rw [memWrite_fault _ _ _ _ (by simp; omega), show max s.txlen.toNat s.cfg.bufCap = s.txlen.toNat + 1 by omega]
      rfl
  · rw [memWrite_fault _ _ _ _ (by omega), show max s.txlen.toNat s.cfg.bufCap = s.txlen.toNat by omega]
    rfl

/-- TX_END with no room for the trailer stops (log 5). -/
theorem exec_txEnd_fault (s : State) (hr : s.txrdy = false) (he : s.txerr = false)
    (h : s.txlen.toNat + 3 > s.cfg.bufCap) :
    exec .txEnd s = .fault (.noSuchCell .txbuf (max s.txlen.toNat s.cfg.bufCap)) := by
  simp [exec, execTxEnd, hr, he, storeTxTrailer_fault _ _ _ s h]

/-- RX_BYTE completes unless it is received beyond the buffer (20_memory.md R46). -/
theorem exec_rxByte_completes (b : Byte) (s : State) (h : s.st = .recv → s.wptr.toNat ≤ s.cfg.bufCap) :
    ∃ t, exec (.rxByte b) s = .next t := by
  by_cases hs : s.st = .recv
  · rcases (h hs).lt_or_eq with hw | hw
    · have hst : exec (.rxByte b) s = _ := execRxByte_stored b s hs hw
      rw [hst]
      split
      · have hlen : (s.wptr + 1).toNat ≤ s.wptr.toNat + 1 := BitVec.toNat_add s.wptr 1 ▸ Nat.mod_le _ _
        exact finish_completes _ _ (hlen.trans hw)
      · exact ⟨_, rfl⟩
    · exact ⟨s, exec_rxByte_full b s hs hw⟩
  · exact ⟨s, exec_rxByte_outside b s hs⟩

/-- TX_PUT always completes: its test leaves room (41_tx_encoder.md R102). -/
theorem exec_txPut_completes (b : Byte) (s : State) : ∃ t, exec (.txPut b) s = .next t := by
  cases hr : s.txrdy with
  | true => exact ⟨_, exec_txPut_refused b s hr⟩
  | false =>
    cases he : s.txerr with
    | true => exact ⟨_, exec_txPut_discarded b s hr he⟩
    | false =>
      by_cases hc : s.txlen.toNat + 4 ≤ s.cfg.bufCap
      · exact ⟨_, exec_txPut_stored b s hr he hc⟩
      · exact ⟨_, exec_txPut_overflow b s hr he (Nat.lt_of_not_le hc)⟩

/-- TX_END in error is discarded (41_tx_encoder.md R103). -/
theorem exec_txEnd_discarded (s : State) (hr : s.txrdy = false) (he : s.txerr = true) : exec .txEnd s = .next s := by
  simp [exec, execTxEnd, hr, he]

/-- TX_END completes unless it has to store a trailer that does not fit (20_memory.md R46). -/
theorem exec_txEnd_completes (s : State)
    (h : s.txrdy = false → s.txerr = false → s.txlen.toNat + 3 ≤ s.cfg.bufCap) : ∃ t, exec .txEnd s = .next t := by
  cases hr : s.txrdy with
  | true => exact ⟨_, exec_txEnd_refused s hr⟩
  | false =>
    cases he : s.txerr with
    | true => exact ⟨_, exec_txEnd_discarded s hr he⟩
    | false => exact ⟨_, execTxEnd_stored s hr he (h hr he)⟩

/-- RX_START completes (42_rx_framer.md R113). -/
theorem exec_rxStart_completes (m : BitVec 1) (s : State) : ∃ t, exec (.rxStart m) s = .next t := by
  by_cases hl : sequenceError (.rxStart m) s = true
  · exact ⟨_, exec_sequenceError _ s hl⟩
  · rw [sequenceError_rxStart_iff, not_or, not_and] at hl
    exact ⟨_, exec_rxStart_opened m s hl.1 fun hm => by simpa using hl.2 hm⟩

/-- TICK below the window counts (42_rx_framer.md R119). -/
theorem exec_tick_counted (s : State) (hs : s.st = .recv) (ht : (nextTmr s).toNat < s.tlimit.toNat) :
    exec .tick s = .next { s with tmr := nextTmr s } :=
  (if_neg (not_not.mpr hs)).trans (if_neg (Nat.not_le.mpr ht))

/-- TICK completes (42_rx_framer.md R119). -/
theorem exec_tick_completes (s : State) : ∃ t, exec .tick s = .next t := by
  by_cases hs : s.st = .recv
  · rcases Nat.lt_or_ge (nextTmr s).toNat s.tlimit.toNat with ht | ht
    · exact ⟨_, exec_tick_counted s hs ht⟩
    · exact ⟨_, exec_tick_timeout s hs ht⟩
  · exact ⟨_, exec_tick_outside s hs⟩

/-- Every event completes from pointers inside the buffers (20_memory.md R46). -/
theorem exec_completes (i : Instr) (s : State)
    (hrx : ∀ b, i = .rxByte b → s.st = .recv → s.wptr.toNat ≤ s.cfg.bufCap)
    (htx : i = .txEnd → s.txrdy = false → s.txerr = false → s.txlen.toNat + 3 ≤ s.cfg.bufCap) :
    ∃ t, exec i s = .next t := by
  cases i with
  | nop | rst | crcClr | crcByte b | crcFin | txClr | rd a => exact ⟨_, rfl⟩
  | txPut b => exact exec_txPut_completes b s
  | txEnd => exact exec_txEnd_completes s (htx rfl)
  | setTlimit v =>
    by_cases hs : s.st = .recv
    · exact ⟨_, exec_setTlimit_refused v s hs⟩
    · exact ⟨_, exec_setTlimit_stored v s hs⟩
  | setExplen v =>
    by_cases hs : s.st = .recv
    · exact ⟨_, exec_setExplen_refused v s hs⟩
    · exact ⟨_, exec_setExplen_stored v s hs⟩
  | rxStart m => exact exec_rxStart_completes m s
  | rxByte b => exact exec_rxByte_completes b s (hrx b rfl)
  | tick => exact exec_tick_completes s

/-- Settles O51: the two stops, and that every event completes outside their conditions. -/
theorem execStopsOnlyOutsideBuffers : Obligations.ExecStopsOnlyOutsideBuffers := by
  refine ⟨exec_rxByte_fault, exec_txEnd_fault, fun i s hno => ?only⟩
  by_contra hout
  rw [not_or] at hout
  obtain ⟨t, ht⟩ := exec_completes i s
    (fun b hi hs => Nat.not_lt.mp fun hw => hout.1 ⟨b, hi, hs, hw⟩)
    (fun hi hr he => Nat.not_lt.mp fun hw => hout.2 ⟨hi, hr, he, hw⟩)
  exact hno t ht

/-- In a state that meets the invariants every event completes (10_state.md R36 (ii), (viii)). -/
theorem BlockInv.exec_completes {s : State} (h : BlockInv s) (i : Instr) : ∃ t, exec i s = .next t :=
  Machine.exec_completes i s (fun _ _ _ => h.wptrInBuffer) fun _ hr _ => h.txHasRoom hr

end Sys2Proof.Machine
end

section
/-!
PROOFS. Every step keeps the invariants of the block (10_state.md R36), and reset meets them.
-/

namespace Sys2Proof.Machine

variable {s t : State}

/-! ### Registers that no invariant reads -/

/-- No invariant reads `ACC`, `RDATA`, `ILL`, `SEQ`, the input or the draw. -/
theorem BlockInv.withUnread (h : BlockInv s) (acc rdata : Word) (ill seq : Bool) (inputs : List Input) (draws : Nat) :
    BlockInv { s with acc := acc, rdata := rdata, ill := ill, seq := seq, inputs := inputs, draws := draws } :=
  { h with statusHighBits := statusWord_reserved _ }

/-- A refused event keeps the invariants. -/
theorem BlockInv.refuseEvent (h : BlockInv s) : BlockInv (refuseEvent s) :=
  h.withUnread s.acc s.rdata s.ill true s.inputs s.draws

/-- An input moved on keeps the invariants. -/
theorem BlockInv.advance (h : BlockInv s) (rest : List Input) (d : Nat) : BlockInv (advance rest d s) :=
  h.withUnread s.acc s.rdata s.ill s.seq rest d

/-- CRC_FIN stores an escaped pair (40_crc.md R92). -/
theorem BlockInv.withCrcout (h : BlockInv s) (r : Word) : BlockInv { s with crcout := escapePair r } :=
  { h with
    statusHighBits := statusWord_reserved _
    crcoutEscaped := by
      rw [highByte_escapePair, lowByte_escapePair]
      exact ⟨esc_not_reserved _, esc_not_reserved _⟩ }

/-! ### Stores -/

/-- A store keeps the canonical form of the buffers. -/
theorem BlockInv.canonical_set (h : BlockInv s) (b : Buffer) (i : Nat) (v : Byte) (c : Buffer) :
    Memory.wf ((s.setCells b (Memory.set (s.cells b) i v)).cells c) = true := by
  rw [cells_setCells]
  split
  · exact memory_wf_set _ i v (h.cellsCanonical b)
  · exact h.cellsCanonical c

/-- A store inside the buffer adds no cell outside it (20_memory.md R46). -/
theorem BlockInv.inBuffer_set (h : BlockInv s) (b : Buffer) (i : Nat) (v : Byte) (hi : i < s.cfg.bufCap) (c : Buffer)
    (j : Nat) (x : Byte) (hx : (s.setCells b (Memory.set (s.cells b) i v)).cell c j = some x) : j < s.cfg.bufCap := by
  rw [cell_setCells_set] at hx
  split at hx
  · next hj => exact hj.2 ▸ hi
  · exact h.cellsInBuffer c j x hx

/-- A store leaves every written cell written. -/
theorem written_set (b : Buffer) (i : Nat) (v : Byte) (c : Buffer) (j : Nat) (hj : s.cell c j ≠ none) :
    (s.setCells b (Memory.set (s.cells b) i v)).cell c j ≠ none := by
  rw [cell_setCells_set]
  split
  · simp
  · exact hj

/-- A store to `TXBUF` before the frame is finished keeps the invariants. -/
theorem BlockInv.storeTxCell (h : BlockInv s) (hr : s.txrdy = false) (i : Nat) (v : Byte) (hi : i < s.cfg.bufCap) :
    BlockInv { s with txbuf := Memory.set s.txbuf i v } :=
  { h with
    statusHighBits := statusWord_reserved _
    cellsCanonical := h.canonical_set .txbuf i v
    cellsInBuffer := h.inBuffer_set .txbuf i v hi
    commandWritten := fun j hj => written_set .txbuf i v .txbuf j (h.commandWritten j hj)
    txHoldsFrame := fun hr' => absurd (hr.symm.trans hr') Bool.false_ne_true }

/-- A store to `BUF` during a receive keeps the invariants, unless it puts a terminator among the received bytes. -/
theorem BlockInv.storeRxCell (h : BlockInv s) (hs : s.st = .recv) (i : Nat) (v : Byte) (hi : i < s.cfg.bufCap)
    (hv : i < s.wptr.toNat → v ≠ 0x0D) : BlockInv { s with buf := Memory.set s.buf i v } :=
  { h with
    statusHighBits := statusWord_reserved _
    cellsCanonical := h.canonical_set .buf i v
    cellsInBuffer := h.inBuffer_set .buf i v hi
    receivedWritten := fun j hj => written_set .buf i v .buf j (h.receivedWritten j hj)
    doneHoldsFrame := fun hd => by cases hs.symm.trans hd
    scanSawNoTerminator := by
      intro _ hm j hj
      change Memory.get (Memory.set s.buf i v) j ≠ some 0x0D
      rw [memory_get_set]
      split
      · next hji => simpa using hv (hji ▸ hj)
      · exact h.scanSawNoTerminator hs hm j hj }

/-! ### Reset -/

/-- The reset registers meet the invariants with every legal capacity and with any cells inside the buffers. -/
theorem blockInv_resetRegisters (s : State) (hcap : s.cfg.wellFormed) (hwf : ∀ b, Memory.wf (s.cells b) = true)
    (hin : ∀ b i v, s.cell b i = some v → i < s.cfg.bufCap) : BlockInv (resetRegisters s) where
  errIffFail := by simp
  wptrInBuffer := Nat.zero_le _
  idleIsClear := fun _ => ⟨rfl, rfl, rfl, rfl, rfl⟩
  doneHoldsFrame := nofun
  recvIsOpen := nofun
  timeoutHasNoLength := nofun
  badFrameHasLength := nofun
  txHasRoom := fun _ => Nat.le_of_lt hcap.1
  txHoldsFrame := nofun
  statusHighBits := statusWord_reserved _
  capLegal := hcap
  cellsCanonical := hwf
  cellsInBuffer := hin
  receivedWritten := nofun
  commandWritten := nofun
  fixedLengthAhead := nofun
  scanSawNoTerminator := nofun
  zeroLimitTmr := nofun
  flenInBuffer := Nat.zero_le _
  failHasNoPayload := nofun
  crcoutEscaped := by rw [resetRegisters_crcout]; decide

/-- RST and the reset pin keep the invariants. -/
theorem BlockInv.resetRegisters (h : BlockInv s) : BlockInv (resetRegisters s) :=
  blockInv_resetRegisters s h.capLegal h.cellsCanonical h.cellsInBuffer

/-- Settles O49: the reset registers, and no cell at all. -/
theorem resetMeetsInvariant : Obligations.ResetMeetsInvariant := by
  intro c hc
  refine blockInv_resetRegisters { State.reset with cfg := c } hc ?canonical ?inBuffer
  case canonical => intro b; cases b <;> rfl
  case inBuffer => intro b i v hv; cases b <;> cases hv

/-! ### The encoder -/

/-- Counting bytes inside a legal buffer does not wrap `TXLEN` (00_scope.md R4). -/
theorem txlen_add_toNat (s : State) (k : Word) (hc : s.cfg.wellFormed) (hk : s.txlen.toNat + k.toNat ≤ s.cfg.bufCap) :
    (s.txlen + k).toNat = s.txlen.toNat + k.toNat := by
  obtain ⟨-, hcap⟩ := hc
  exact BitVec.toNat_add_of_lt (show s.txlen.toNat + k.toNat < 2 ^ 16 by omega)

/-- TX_CLR keeps the invariants. -/
theorem BlockInv.txCleared (h : BlockInv s) : BlockInv { s with txlen := 0, txrdy := false, txerr := false } :=
  { h with
    statusHighBits := statusWord_reserved _
    txHasRoom := fun _ => Nat.le_of_lt h.capLegal.1
    txHoldsFrame := nofun
    commandWritten := nofun }

/-- A latched `InvalidCommand` keeps the invariants. -/
theorem BlockInv.raiseInvalidCommand (h : BlockInv s) (hr : s.txrdy = false) : BlockInv (raiseInvalidCommand s) :=
  { h with
    statusHighBits := statusWord_reserved _
    txHoldsFrame := fun hr' => absurd (hr.symm.trans hr') Bool.false_ne_true }

/-- A stored TX_PUT keeps the invariants: the byte is written, and room for the trailer is left. -/
theorem BlockInv.txPut_stored (h : BlockInv s) (hr : s.txrdy = false) (hc : s.txlen.toNat + 4 ≤ s.cfg.bufCap)
    (b : Byte) :
    BlockInv { s with txlen := s.txlen + 1, txbuf := Memory.set s.txbuf s.txlen.toNat b } := by
  have hlen : (s.txlen + 1).toNat = s.txlen.toNat + 1 :=
    txlen_add_toNat s 1 h.capLegal (show s.txlen.toNat + 1 ≤ _ by omega)
  have h1 := h.storeTxCell hr s.txlen.toNat b (by omega)
  exact { h1 with
    statusHighBits := statusWord_reserved _
    txHasRoom := fun _ => show (s.txlen + 1).toNat + 3 ≤ s.cfg.bufCap by omega
    txHoldsFrame := fun hr' => absurd (hr.symm.trans hr') Bool.false_ne_true
    commandWritten := by
      intro j hj
      change Memory.get (Memory.set s.txbuf s.txlen.toNat b) j ≠ none
      rw [memory_get_set]
      split
      · simp
      · exact h.commandWritten j (by change j < (s.txlen + 1).toNat at hj; omega) }

/-- The cells of `TXBUF` after the trailer is stored (41_tx_encoder.md R103). -/
theorem cell_afterTrailer (s : State) (j : Nat) :
    (afterTrailer s).cell .txbuf j =
      if j = s.txlen.toNat then some (highByte (crc16 (memReadFirst .txbuf s.txlen.toNat s)))
      else if j = s.txlen.toNat + 1 then some (lowByte (crc16 (memReadFirst .txbuf s.txlen.toNat s)))
      else if j = s.txlen.toNat + 2 then some 0x0D
      else s.cell .txbuf j := by
  change Memory.get (Memory.set (Memory.set (Memory.set _ _ _) _ _) _ _) j = _
  simp only [memory_get_set]
  grind [terminator, State.cell, State.cells]

/-- The three stores of a trailer that fits keep the invariants. -/
theorem BlockInv.storeTxTrailer (h : BlockInv s) (hr : s.txrdy = false) (hc : s.txlen.toNat + 3 ≤ s.cfg.bufCap)
    (b0 b1 b2 : Byte) :
    BlockInv { s with
      txbuf := Memory.set (Memory.set (Memory.set s.txbuf s.txlen.toNat b0) (s.txlen.toNat + 1) b1)
        (s.txlen.toNat + 2) b2 } := by
  have h0 := h.storeTxCell hr s.txlen.toNat b0 (by omega)
  have h1 := h0.storeTxCell hr (s.txlen.toNat + 1) b1 (show s.txlen.toNat + 1 < s.cfg.bufCap by omega)
  exact h1.storeTxCell hr (s.txlen.toNat + 2) b2 (show s.txlen.toNat + 2 < s.cfg.bufCap by omega)

/-- A finished frame keeps the invariants: the trailer is three written cells with the terminator last. -/
theorem BlockInv.afterTrailer (h : BlockInv s) (hr : s.txrdy = false) (he : s.txerr = false)
    (hc : s.txlen.toNat + 3 ≤ s.cfg.bufCap) : BlockInv (afterTrailer s) := by
  have hlen : (s.txlen + 3).toNat = s.txlen.toNat + 3 := txlen_add_toNat s 3 h.capLegal hc
  let k := crc16 (memReadFirst .txbuf s.txlen.toNat s)
  exact { h.storeTxTrailer hr hc (highByte k) (lowByte k) terminator with
    statusHighBits := statusWord_reserved _
    txHasRoom := nofun
    txHoldsFrame := by
      intro _
      change 3 ≤ (s.txlen + 3).toNat ∧ (s.txlen + 3).toNat ≤ s.cfg.bufCap ∧ s.txerr = false ∧
        (Machine.afterTrailer s).cell .txbuf ((s.txlen + 3).toNat - 1) = some 0x0D
      rw [hlen, cell_afterTrailer]
      simp [hc, he]
    commandWritten := by
      intro j hj
      change j < (s.txlen + 3).toNat at hj
      rw [cell_afterTrailer]
      have := h.commandWritten j
      grind }

/-! ### The receiver -/

/-- SET_TLIMIT outside a receive keeps the invariants. -/
theorem BlockInv.withTlimit (h : BlockInv s) (hs : s.st ≠ .recv) (v : Word) : BlockInv { s with tlimit := v } :=
  { h with
    statusHighBits := statusWord_reserved _
    recvIsOpen := fun e => absurd e hs
    zeroLimitTmr := fun e => absurd e hs }

/-- SET_EXPLEN outside a receive keeps the invariants. -/
theorem BlockInv.withExplen (h : BlockInv s) (hs : s.st ≠ .recv) (v : Word) : BlockInv { s with explen := v } :=
  { h with
    statusHighBits := statusWord_reserved _
    fixedLengthAhead := fun e => absurd e hs }

/-- An accepted RX_START opens a receive in which nothing has been received. -/
theorem BlockInv.openReceive (h : BlockInv s) (m : BitVec 1) (hm : m = 1 → explenUsable s = true) :
    BlockInv (openReceive m s) :=
  { h with
    statusHighBits := statusWord_reserved _
    errIffFail := by simp
    wptrInBuffer := Nat.zero_le _
    idleIsClear := nofun
    doneHoldsFrame := nofun
    recvIsOpen := fun _ => ⟨rfl, rfl, fun h1 => h1⟩
    timeoutHasNoLength := nofun
    badFrameHasLength := nofun
    receivedWritten := nofun
    fixedLengthAhead := by
      intro _ hf
      have hm1 : m = 1 := by
        by_contra hne
        exact absurd ((if_neg hne).symm.trans hf) (by decide)
      obtain ⟨hlo, hhi⟩ := (explenUsable_iff s).mp (hm hm1)
      exact ⟨hlo, hhi, Nat.lt_of_lt_of_le (by decide : 0 < 4) hlo⟩
    scanSawNoTerminator := nofun
    zeroLimitTmr := fun _ _ => rfl
    flenInBuffer := Nat.zero_le _
    failHasNoPayload := nofun }

/-- An open receive has no length and no payload (10_state.md R36 (v)). -/
theorem BlockInv.flen_paylen_of_recv (h : BlockInv s) (hs : s.st = .recv) : s.flen = 0 ∧ s.paylen = 0 :=
  (h.recvIsOpen hs).imp_right And.left

/-- A counted TICK stays inside the window. -/
theorem BlockInv.tick_counted (h : BlockInv s) (hs : s.st = .recv) (ht : (nextTmr s).toNat < s.tlimit.toNat) :
    BlockInv { s with tmr := nextTmr s } :=
  { h with
    statusHighBits := statusWord_reserved _
    idleIsClear := fun hi => by cases hs.symm.trans hi
    recvIsOpen := by
      obtain ⟨hflen, hpaylen⟩ := h.flen_paylen_of_recv hs
      exact fun _ => ⟨hflen, hpaylen, fun _ => ht⟩
    zeroLimitTmr := by
      intro _ h0
      change s.tlimit = 0 at h0
      rw [h0] at ht
      exact absurd ht (Nat.not_lt_zero _) }

/-- A timeout leaves no lengths. -/
theorem BlockInv.tick_timeout (h : BlockInv s) (hs : s.st = .recv) :
    BlockInv (raiseRx .readTimeout { s with tmr := nextTmr s }) :=
  { h with
    statusHighBits := statusWord_reserved _
    errIffFail := by simp
    idleIsClear := nofun
    doneHoldsFrame := nofun
    recvIsOpen := nofun
    timeoutHasNoLength := fun _ _ => (h.flen_paylen_of_recv hs).1
    badFrameHasLength := by simp
    fixedLengthAhead := nofun
    scanSawNoTerminator := nofun
    zeroLimitTmr := nofun
    failHasNoPayload := fun _ => (h.flen_paylen_of_recv hs).2 }

/-- The byte an RX_BYTE stores, before it is counted, keeps the invariants. -/
theorem BlockInv.storeRxByte (h : BlockInv s) (hs : s.st = .recv) (hw : s.wptr.toNat < s.cfg.bufCap) (b : Byte) :
    BlockInv { s with buf := Memory.set s.buf s.wptr.toNat b } :=
  h.storeRxCell hs s.wptr.toNat b hw fun hlt => absurd hlt (Nat.lt_irrefl _)

/-- After RX_BYTE the received bytes are those before and the byte, all of them written. -/
theorem BlockInv.receivedWritten_afterStore (h : BlockInv s) (hw : s.wptr.toNat < s.cfg.bufCap) (b : Byte) (j : Nat)
    (hj : j < (s.wptr + 1).toNat) : (afterStore b s).cell .buf j ≠ none := by
  rw [wptr_add_one_toNat s h.capLegal hw] at hj
  rw [cell_afterStore]
  split
  · simp
  · exact h.receivedWritten j (by omega)

/-- A stored byte that does not end the frame keeps the invariants: it is no terminator in scan mode, and does not
reach the length in fixed mode. -/
theorem BlockInv.afterStore (h : BlockInv s) (hs : s.st = .recv) (hw : s.wptr.toNat < s.cfg.bufCap) (b : Byte)
    (hb : ¬ terminates b s) : BlockInv (afterStore b s) := by
  have hlen := wptr_add_one_toNat s h.capLegal hw
  obtain ⟨hscan, hfixed⟩ := not_or.mp hb
  exact { h.storeRxByte hs hw b with
    statusHighBits := statusWord_reserved _
    wptrInBuffer := hlen.trans_le hw
    idleIsClear := fun e => by cases hs.symm.trans e
    doneHoldsFrame := fun e => by cases hs.symm.trans e
    badFrameHasLength := fun e => by cases hs.symm.trans e
    receivedWritten := h.receivedWritten_afterStore hw b
    fixedLengthAhead := by
      intro _ hm
      obtain ⟨hlo, hhi, hlt⟩ := h.fixedLengthAhead hs hm
      have hne : (s.wptr + 1).toNat ≠ s.explen.toNat := fun e => hfixed ⟨hm, BitVec.eq_of_toNat_eq e⟩
      exact ⟨hlo, hhi, show (s.wptr + 1).toNat < s.explen.toNat by omega⟩
    scanSawNoTerminator := by
      intro _ hm j hj
      change j < (s.wptr + 1).toNat at hj
      rw [cell_afterStore]
      split
      · simpa using fun hb => hscan ⟨hm, hb⟩
      · exact h.scanSawNoTerminator hs hm j (by omega) }

/-- A rejected frame keeps the invariants: its length is the number of bytes received, and no payload is set. -/
theorem BlockInv.rejectFrame (h : BlockInv s) (hs : s.st = .recv) (hw : s.wptr.toNat < s.cfg.bufCap) (b : Byte)
    (e : RxError) (he : e ≠ .readTimeout) :
    BlockInv (raiseRx e { Machine.afterStore b s with flen := s.wptr + 1 }) := by
  have hlen := wptr_add_one_toNat s h.capLegal hw
  exact { h.storeRxByte hs hw b with
    statusHighBits := statusWord_reserved _
    errIffFail := by simp
    wptrInBuffer := hlen.trans_le hw
    idleIsClear := nofun
    doneHoldsFrame := nofun
    recvIsOpen := nofun
    timeoutHasNoLength := fun _ ht => absurd (Option.some.inj ht) he
    badFrameHasLength := fun _ _ => ⟨rfl, show 1 ≤ (s.wptr + 1).toNat by omega⟩
    receivedWritten := h.receivedWritten_afterStore hw b
    fixedLengthAhead := nofun
    scanSawNoTerminator := nofun
    zeroLimitTmr := nofun
    flenInBuffer := hlen.trans_le hw
    failHasNoPayload := fun _ => (h.flen_paylen_of_recv hs).2 }

/-- An accepted frame keeps the invariants: the frame is the bytes received, with the null in it. -/
theorem BlockInv.acceptFrame (h : BlockInv s) (hs : s.st = .recv) (hw : s.wptr.toNat < s.cfg.bufCap) (b : Byte)
    (hmark : memRead .buf 0 (Machine.afterStore b s) = startMarker) (h4 : 4 ≤ (s.wptr + 1).toNat) :
    BlockInv { Machine.afterStore b s with
      flen := s.wptr + 1,
      buf := Memory.set (Machine.afterStore b s).buf (crcHighIndex (s.wptr + 1).toNat) 0x00,
      paylen := s.wptr + 1 - 4, st := .done, err := none } := by
  have hlen := wptr_add_one_toNat s h.capLegal hw
  have hnull : crcHighIndex (s.wptr + 1).toNat < s.cfg.bufCap := by unfold crcHighIndex; omega
  have hstored := (h.storeRxByte hs hw b).storeRxCell hs (crcHighIndex (s.wptr + 1).toNat) 0x00 hnull
    fun _ => by decide
  have hfirst : (Machine.afterStore b s).cell .buf 0 = some 0x28 := by
    cases hc : (Machine.afterStore b s).cell .buf 0 with
    | none => exact absurd hc (h.receivedWritten_afterStore hw b 0 (by omega))
    | some v => rw [← memRead_of_cell _ _ _ _ hc, hmark, startMarker]
  have hcell (j : Nat) : Memory.get (Memory.set (Machine.afterStore b s).buf (crcHighIndex (s.wptr + 1).toNat) 0x00) j
      = if j = crcHighIndex (s.wptr + 1).toNat then some 0x00 else (Machine.afterStore b s).cell .buf j :=
    memory_get_set _ _ _ _
  exact { hstored with
    statusHighBits := statusWord_reserved _
    errIffFail := by simp
    wptrInBuffer := hlen.trans_le hw
    idleIsClear := nofun
    doneHoldsFrame := by
      intro _
      refine ⟨h4, rfl, hlen.trans_le hw, rfl, (hcell 0).trans ?_, (hcell _).trans (if_pos rfl)⟩
      rw [if_neg (by unfold crcHighIndex; omega), hfirst]
    recvIsOpen := nofun
    timeoutHasNoLength := nofun
    badFrameHasLength := nofun
    receivedWritten := fun j hj => written_set .buf _ _ .buf j (h.receivedWritten_afterStore hw b j hj)
    fixedLengthAhead := nofun
    scanSawNoTerminator := nofun
    zeroLimitTmr := nofun
    flenInBuffer := hlen.trans_le hw
    failHasNoPayload := nofun }

/-- The RX_BYTE that ends a frame keeps the invariants, however the frame is judged (43_validator.md R130). -/
theorem BlockInv.finish (h : BlockInv s) (hs : s.st = .recv) (hw : s.wptr.toNat < s.cfg.bufCap) (b : Byte)
    (hf : finish (s.wptr + 1) (Machine.afterStore b s) = .next t) : BlockInv t := by
  obtain ⟨-, rfl⟩ | ⟨-, -, rfl⟩ | ⟨hmark, h4, -, -, rfl⟩ := finish_eq_next _ _ _ hf
  · exact h.rejectFrame hs hw b .malformedFrame (by decide)
  · exact h.rejectFrame hs hw b .checksumFailure (by decide)
  · exact h.acceptFrame hs hw b hmark h4

/-! ### Every event and every step -/

/-- Every event keeps the invariants: the ways it can go, each by the lemma on its update. -/
theorem BlockInv.exec (h : BlockInv s) (i : Instr) (hi : exec i s = .next t) : BlockInv t := by
  have e := exec_effect i s t hi
  cases i with
  | nop => obtain rfl := e; exact h
  | rst => obtain rfl := e; exact h.resetRegisters
  | crcClr => obtain rfl := e; exact h.withUnread 0 s.rdata s.ill s.seq s.inputs s.draws
  | crcByte b => obtain rfl := e; exact h.withUnread _ s.rdata s.ill s.seq s.inputs s.draws
  | crcFin => obtain rfl := e; exact h.withCrcout s.acc
  | rd a => obtain rfl := e; exact h.withUnread s.acc _ s.ill s.seq s.inputs s.draws
  | txClr => obtain rfl := e; exact h.txCleared
  | txPut b =>
    obtain ⟨-, rfl⟩ | ⟨-, -, rfl⟩ | ⟨hr, -, -, rfl⟩ | ⟨hr, -, hc, rfl⟩ := e
    · exact h.refuseEvent
    · exact h
    · exact h.raiseInvalidCommand hr
    · exact h.txPut_stored hr hc b
  | txEnd =>
    obtain ⟨-, rfl⟩ | ⟨-, -, rfl⟩ | ⟨hr, he, hc, rfl⟩ := e
    · exact h.refuseEvent
    · exact h
    · exact h.afterTrailer hr he hc
  | setTlimit v =>
    obtain ⟨-, rfl⟩ | ⟨hs, rfl⟩ := e
    · exact h.refuseEvent
    · exact h.withTlimit hs v
  | setExplen v =>
    obtain ⟨-, rfl⟩ | ⟨hs, rfl⟩ := e
    · exact h.refuseEvent
    · exact h.withExplen hs v
  | rxStart m =>
    obtain ⟨-, rfl⟩ | ⟨-, -, -, rfl⟩ | ⟨-, hm, rfl⟩ := e
    · exact h.refuseEvent
    · exact h.refuseEvent
    · exact h.openReceive m hm
  | rxByte b =>
    obtain ⟨-, rfl⟩ | ⟨-, -, rfl⟩ | ⟨hs, hw, hb, rfl⟩ | ⟨hs, hw, -, hf⟩ := e
    · exact h
    · exact h
    · exact h.afterStore hs hw b hb
    · exact h.finish hs hw b hf
  | tick =>
    obtain ⟨-, rfl⟩ | ⟨hs, ht, rfl⟩ | ⟨hs, -, rfl⟩ := e
    · exact h
    · exact h.tick_counted hs ht
    · exact h.tick_timeout hs

/-- Settles O48: the state an event sees differs from `s` in the input and the draw, and every event, the illegal word
and the pin keep the invariants. -/
theorem stepKeepsInvariant : Obligations.StepKeepsInvariant := by
  intro s t h hst
  have e := step_effect s
  rw [hst] at e
  generalize hr : Host.Outcome.next t = r at e
  cases e with
  | idle => cases hr; exact h
  | event i rest => exact BlockInv.exec (h.advance rest (drawsAfter i s.draws)) i hr.symm
  | illegal rest => cases hr; exact (h.advance rest (s.draws + 1)).withUnread s.acc s.rdata true s.seq _ _
  | pin rest => cases hr; exact (h.advance rest (s.draws + 1)).resetRegisters
  | quiet rest => cases hr; exact h.advance rest s.draws

/-- Settles O50: an event completes in a state that meets the invariants, and the other things a step can do always
do. -/
theorem stepNeverStops : Obligations.StepNeverStops := by
  intro s h
  have e := step_effect s
  generalize step s = r at e
  cases e with
  | event i rest => exact (h.advance rest (drawsAfter i s.draws)).exec_completes i
  | idle | illegal rest | pin rest | quiet rest => exact ⟨_, rfl⟩

end Sys2Proof.Machine
end

section
/-!
PROOFS. The function CRC-16 of the block (40_crc.md R80 to R93): its steps as steps of the bit-serial form, which is
linear, and what follows for whole sequences.
-/

namespace Sys2Proof.Machine

/-! ### The table and the nibble step -/

/-- Settles O12: the law holds at each of the 16 indexes. -/
theorem crcTableLaw : Obligations.CrcTableLaw := ⟨by decide, by decide, by decide⟩

/-- A table entry is a multiple of the polynomial (40_crc.md R81). -/
theorem crcEntry_toNat : ∀ i : Nibble, (crcEntry i).toNat = i.toNat * 0x1021 := by decide

/-- The index of the nibble step is the top nibble of the accumulator before the shift (40_crc.md R82). -/
theorem toNat_topNibble (acc : Word) : (acc.extractLsb' 12 4).toNat = acc.toNat / 4096 := by
  rw [BitVec.extractLsb'_toNat, Nat.shiftRight_eq_div_pow]
  exact Nat.mod_eq_of_lt (by have := acc.isLt; omega)

/-- Settles O13: the shift is the multiplication by 16, and the table entry the multiple of 0x1021. -/
theorem nibbleStepInNumbers : Obligations.NibbleStepInNumbers := by
  intro acc n
  rw [nibbleStep, BitVec.toNat_xor, BitVec.toNat_shiftLeft, Nat.shiftLeft_eq, crcEntry_toNat, BitVec.toNat_xor,
    toNat_topNibble]

/-! ### The bit-serial form -/

/-- One bit-serial step is linear over exclusive-or (40_crc.md R89). -/
theorem bitSerialStep_xor (x y : Word) : bitSerialStep (x ^^^ y) = bitSerialStep x ^^^ bitSerialStep y := by
  have hpoly (z : Word) : bitSerialStep z = z <<< 1 ^^^ (if z.getLsbD 15 then 0x1021 else 0) := by
    unfold bitSerialStep
    split <;> simp
  have hfeedback (p q : Bool) : (if p ^^ q then 0x1021 else 0 : Word) =
      (if p then 0x1021 else 0) ^^^ (if q then 0x1021 else 0) := by
    cases p <;> cases q <;> rfl
  rw [hpoly, hpoly, hpoly, BitVec.shiftLeft_xor_distrib, BitVec.getLsbD_xor, hfeedback]
  ac_rfl

/-- Any number of bit-serial steps is linear over exclusive-or. -/
theorem bitSerialStep_iterate_xor (k : Nat) (x y : Word) :
    bitSerialStep^[k] (x ^^^ y) = bitSerialStep^[k] x ^^^ bitSerialStep^[k] y := by
  induction k generalizing x y with
  | zero => rfl
  | succ k ih => rw [Function.iterate_succ_apply, bitSerialStep_xor, ih]; rfl

/-- Bits that do not reach the top are only shifted. -/
theorem bitSerialStep_iterate_of_lt (k : Nat) (c : Word) (hk : k ≤ 16) (h : c.toNat < 2 ^ (16 - k)) :
    bitSerialStep^[k] c = c <<< k := by
  induction k with
  | zero => simp
  | succ k ih =>
    have hlt : c.toNat < 2 ^ (16 - k) := h.trans_le (Nat.pow_le_pow_right (by decide) (by omega))
    have hbit : c.getLsbD (15 - k) = false := Nat.testBit_lt_two_pow (by rwa [show 15 - k = 16 - (k + 1) by omega])
    have htop : (c <<< k).getLsbD 15 = false := by
      rw [BitVec.getLsbD_shiftLeft, hbit, Bool.and_false]
    rw [Function.iterate_succ_apply', ih (by omega) hlt, bitSerialStep, htop, BitVec.shiftLeft_add]
    rfl

/-- A word without its bits from `k` on is below `2 ^ k`. -/
theorem xor_high_lt (k : Nat) (acc : Word) :
    (acc ^^^ (acc.extractLsb' k (16 - k)).setWidth 16 <<< k).toNat < 2 ^ k := by
  refine Nat.lt_pow_two_of_testBit _ fun i hi => ?_
  rw [← BitVec.getLsbD]
  by_cases h16 : i < 16
  · simp [hi, h16, show i - k < 16 - k by omega]
  · exact BitVec.getLsbD_of_ge _ _ (by omega)

/-- A table entry is four bit-serial steps on its index at the top (40_crc.md R81, R89). -/
theorem crcEntry_eq_bitSerial : ∀ i : Nibble, crcEntry i = bitSerialStep^[4] (i.setWidth 16 <<< 12) := by decide

/-- The nibble step is four bit-serial steps on the accumulator with the nibble folded into its top: the top nibble
gives the table entry, and the other bits are shifted (40_crc.md R82, R89). -/
theorem nibbleStep_eq_bitSerial (acc : Word) (n : Nibble) :
    nibbleStep acc n = bitSerialStep^[4] (acc ^^^ n.setWidth 16 <<< 12) := by
  let t : Nibble := acc.extractLsb' 12 4
  have hsplit : acc ^^^ n.setWidth 16 <<< 12 =
      (acc ^^^ t.setWidth 16 <<< 12) ^^^ (t ^^^ n).setWidth 16 <<< 12 := by
    rw [BitVec.setWidth_xor, BitVec.shiftLeft_xor_distrib]
    simp [BitVec.xor_assoc]
  have hlow : bitSerialStep^[4] (acc ^^^ t.setWidth 16 <<< 12) = acc <<< 4 := by
    rw [bitSerialStep_iterate_of_lt 4 _ (by decide) (xor_high_lt 12 acc), BitVec.shiftLeft_xor_distrib,
      ← BitVec.shiftLeft_add]
    simp
  rw [hsplit, bitSerialStep_iterate_xor, hlow, ← crcEntry_eq_bitSerial]
  rfl

/-- The two nibbles of a byte at their places. -/
theorem nibbles_shiftLeft : ∀ b : Byte,
    (b.extractLsb' 4 4).setWidth 16 <<< 12 ^^^ (b.extractLsb' 0 4).setWidth 16 <<< 8 = b.setWidth 16 <<< 8 := by
  decide +kernel

/-- The byte step is eight bit-serial steps on the accumulator with the byte folded into its high byte: the low nibble
may be folded in before the first four, which only shift it (40_crc.md R83, R89). -/
theorem byteStep_eq_bitSerial (acc : Word) (b : Byte) :
    byteStep acc b = bitSerialStep^[8] (acc ^^^ b.setWidth 16 <<< 8) := by
  have hlow : (b.extractLsb' 0 4).setWidth 16 <<< 12 =
      bitSerialStep^[4] ((b.extractLsb' 0 4).setWidth 16 <<< 8) := by
    rw [bitSerialStep_iterate_of_lt 4 _ (by decide) ?lt, ← BitVec.shiftLeft_add]
    rw [BitVec.toNat_shiftLeft, Nat.shiftLeft_eq, BitVec.toNat_setWidth]
    have hn := (b.extractLsb' 0 4).isLt
    omega
  rw [byteStep, nibbleStep_eq_bitSerial, nibbleStep_eq_bitSerial, hlow, ← bitSerialStep_iterate_xor,
    ← Function.iterate_add_apply, BitVec.xor_assoc, nibbles_shiftLeft]

/-- Settles O14. -/
theorem byteStepIsBitSerial : Obligations.ByteStepIsBitSerial := byteStep_eq_bitSerial

/-! ### Whole sequences -/

/-- The byte step is linear over exclusive-or, in the accumulator and the byte together (40_crc.md R89). -/
theorem byteStep_xor (acc acc' : Word) (b b' : Byte) :
    byteStep (acc ^^^ acc') (b ^^^ b') = byteStep acc b ^^^ byteStep acc' b' := by
  rw [byteStep_eq_bitSerial, byteStep_eq_bitSerial, byteStep_eq_bitSerial, ← bitSerialStep_iterate_xor,
    BitVec.setWidth_xor, BitVec.shiftLeft_xor_distrib]
  congr 1
  ac_rfl

/-- The fold of the byte step is linear over exclusive-or, from any two accumulators. -/
theorem foldl_byteStep_xor (x y : List Byte) (h : x.length = y.length) (acc acc' : Word) :
    (List.zipWith (· ^^^ ·) x y).foldl byteStep (acc ^^^ acc') = x.foldl byteStep acc ^^^ y.foldl byteStep acc' := by
  induction x generalizing y acc acc' with
  | nil =>
    obtain rfl := List.length_eq_zero_iff.mp h.symm
    rfl
  | cons a x ih =>
    cases y with
    | nil => cases h
    | cons b y =>
      rw [List.zipWith_cons_cons, List.foldl_cons, byteStep_xor]
      exact ih y (Nat.succ.inj h) _ _

/-- Settles O15: the accumulator 0 is the exclusive-or of two accumulators 0. -/
theorem rawCrcIsLinear : Obligations.RawCrcIsLinear := fun x y h => foldl_byteStep_xor x y h 0 0

/-- A sequence and then a byte (40_crc.md R84). -/
theorem crc16Raw_append (s t : List Byte) : crc16Raw (s ++ t) = t.foldl byteStep (crc16Raw s) := List.foldl_append

/-- The high byte of the accumulator cancels against itself: what is left is its low byte, shifted up. -/
theorem byteStep_highByte (r : Word) : byteStep r (highByte r) = r <<< 8 := by
  have hlt : (r ^^^ (highByte r).setWidth 16 <<< 8).toNat < 2 ^ 8 := xor_high_lt 8 r
  rw [byteStep_eq_bitSerial, bitSerialStep_iterate_of_lt 8 _ (by decide) hlt, BitVec.shiftLeft_xor_distrib,
    ← BitVec.shiftLeft_add]
  simp

/-- A byte that is all of the accumulator cancels it. -/
theorem byteStep_lowByte (r : Word) : byteStep (r <<< 8) (lowByte r) = 0 := by
  have hlow : (lowByte r).setWidth 16 <<< 8 = r <<< 8 := by
    ext i hi
    simp [lowByte, show i - 8 < 8 by omega, BitVec.getLsbD_eq_getElem (show i - 8 < 16 by omega)]
  rw [byteStep_eq_bitSerial, hlow, BitVec.xor_self]
  decide

/-- Settles O16: the two bytes of the accumulator cancel it one after the other. -/
theorem rawCrcResidueIsZero : Obligations.RawCrcResidueIsZero := by
  intro s
  rw [crc16Raw_append, List.foldl_cons, List.foldl_cons, byteStep_highByte, byteStep_lowByte]
  rfl

/-- Settles O18: both bytes of the pair are escapes. -/
theorem escapedCrcAvoidsReservedBytes : Obligations.EscapedCrcAvoidsReservedBytes := by
  intro s
  rw [crc16, highByte_escapePair, lowByte_escapePair]
  exact ⟨esc_not_reserved _, esc_not_reserved _⟩

/-- The raw CRCs of two sequences that differ in their second byte: the pairs 0x290E and 0x280D, which the escape
maps to one pair (40_crc.md R86). -/
theorem crc16Raw_colliding :
    crc16Raw (0x28 :: [] ++ 0x00 :: (List.replicate 37 0x00 ++ [0x6D, 0x6D])) = 0x290E ∧
    crc16Raw (0x28 :: [] ++ 0xE5 :: (List.replicate 37 0x00 ++ [0x6D, 0x6D])) = 0x280D := by
  decide +kernel

/-- Settles O60: the escape maps 0x28 to 0x29 and 0x0D to 0x0E, and the two raw CRCs differ in just that. -/
theorem oneChangedByteCanPass : Obligations.OneChangedByteCanPass := by
  obtain ⟨hx, hy⟩ := crc16Raw_colliding
  refine ⟨[], List.replicate 37 0x00 ++ [0x6D, 0x6D], 0x00, 0xE5, by decide, ?differ, ?same⟩
  case differ => rw [hx, hy]; decide
  case same => rw [crc16, crc16, hx, hy]; decide

/-! ### The pseudo-instruction CRC16 -/

/-- A run of CRC_BYTE folds the byte step over the bytes (40_crc.md R91). -/
theorem execAll_crcByte (bytes : List Byte) (s : State) :
    execAll (bytes.map .crcByte) s = .next { s with acc := bytes.foldl byteStep s.acc } := by
  induction bytes generalizing s with
  | nil => rfl
  | cons b bytes ih =>
    rw [List.map_cons, execAll, exec_crcByte, andThen_next, ih]
    rfl

/-- Settles O19: CRC_CLR sets the accumulator that `crc16_raw` starts from, and CRC_FIN escapes its result. -/
theorem crcPseudoComputesCrc16 : Obligations.CrcPseudoComputesCrc16 := by
  intro bytes s
  rw [expandPseudo_crc16, execAll_append, execAll_append, execAll, exec_crcClr, andThen_next, execAll_nil, andThen_next,
    execAll_crcByte]
  rfl

end Sys2Proof.Machine
end

section
/-!
PROOFS. The two wire formats (30_encoding.md R60, R61), and sequences of bytes in a buffer.
-/

namespace Sys2Proof.Machine

/-! ### The wire formats -/

/-- An inbound frame is a start marker and an outbound frame's bytes: the outbound frame of the marked payload
(30_encoding.md R60, R61). -/
theorem inboundFrame_eq_outboundFrame (p : List Byte) : inboundFrame p = outboundFrame (startMarker :: p) := rfl

/-- The length of an outbound frame (30_encoding.md R60). -/
@[simp] theorem outboundFrame_length (c : List Byte) : (outboundFrame c).length = c.length + 3 := by
  simp [outboundFrame]

/-- The bytes of an outbound frame: the command and, behind it, the trailer (30_encoding.md R60). -/
theorem outboundFrame_getElem? (c : List Byte) (j : Nat) :
    (outboundFrame c)[j]? =
      if j < c.length then (c)[j]?
      else if j = c.length then some (highByte (crc16 c))
      else if j = c.length + 1 then some (lowByte (crc16 c))
      else if j = c.length + 2 then some 0x0D
      else none := by
  rw [outboundFrame]
  obtain h | rfl | rfl | rfl | h :
      j < c.length ∨ j = c.length ∨ j = c.length + 1 ∨ j = c.length + 2 ∨ c.length + 3 ≤ j := by omega
  · rw [if_pos h, List.getElem?_append_left h]
  · simp
  · simp
  · simp [terminator]
  · rw [List.getElem?_eq_none (by simpa using h), if_neg (by omega), if_neg (by omega), if_neg (by omega),
      if_neg (by omega)]

/-- Settles O58: both frames are three bytes behind what their CRC covers. -/
theorem wireFormats : Obligations.WireFormats := by
  have hout (c : List Byte) : (outboundFrame c).length = c.length + 3 ∧ (outboundFrame c).take c.length = c ∧
      (outboundFrame c)[c.length]? = some (highByte (crc16 c)) ∧
      (outboundFrame c)[c.length + 1]? = some (lowByte (crc16 c)) ∧
      (outboundFrame c)[c.length + 2]? = some 0x0D := by
    refine ⟨outboundFrame_length c, List.take_left, ?_, ?_, ?_⟩ <;> rw [outboundFrame_getElem?] <;> simp
  exact ⟨hout, fun p => hout (startMarker :: p)⟩

/-! ### Sequences of bytes in a buffer -/

/-- A pointer that has counted `n` bytes from 0. -/
theorem toNat_zero_add_ofNat (n : Nat) (h : n < 2 ^ 16) : ((0 : Word) + BitVec.ofNat 16 n).toNat = n := by
  rw [zero_add, BitVec.toNat_ofNat, Nat.mod_eq_of_lt h]

/-- Writes bytes one after the other from an index on. -/
def Memory.setAll : Memory → Nat → List Byte → Memory
  | m, _, [] => m
  | m, i, b :: bs => Memory.setAll (Memory.set m i b) (i + 1) bs

/-- A cell after bytes were written from index `i` on. -/
theorem memory_get_setAll (m : Memory) (i j : Nat) (bs : List Byte) :
    Memory.get (Memory.setAll m i bs) j = if i ≤ j ∧ j < i + bs.length then bs[j - i]? else Memory.get m j := by
  induction bs generalizing m i with
  | nil => rw [if_neg (by simp)]; rfl
  | cons b bs ih =>
    rw [Memory.setAll, ih, memory_get_set]
    obtain h | rfl | h := Nat.lt_trichotomy j i
    · rw [if_neg (by omega), if_neg (by omega), if_neg (by omega)]
    · simp
    · rw [if_neg (show j ≠ i by omega), show j - i = j - (i + 1) + 1 by omega, List.getElem?_cons_succ,
        List.length_cons]
      congr 1
      simp only [eq_iff_iff]
      omega

/-- The first bytes of a buffer whose cells hold a sequence. -/
theorem memReadFirst_of_cell (b : Buffer) (l : List Byte) (s : State) (h : ∀ j, j < l.length → s.cell b j = l[j]?) :
    memReadFirst b l.length s = l := by
  refine List.ext_getElem (memReadFirst_length ..) fun j hj hj' => ?_
  have hcell : s.cell b j = some l[j] := (h j hj').trans (List.getElem?_eq_getElem hj')
  simpa [memReadFirst] using memRead_of_cell s b j _ hcell

end Sys2Proof.Machine
end

section
/-!
PROOFS. TX_END in each of its cases, and SEND (41_tx_encoder.md R100 to R103).
-/

namespace Sys2Proof.Machine

/-- Settles O26: the word, and the three cases of R103 in the order of its tests. -/
theorem txEndResult : Obligations.TxEndResult :=
  ⟨rfl, fun s => ⟨exec_txEnd_refused s, exec_txEnd_discarded s, fun hr he hc =>
    ⟨_, execTxEnd_stored s hr he hc, rfl, cell_afterTrailer s⟩⟩⟩

/-! ### Runs of TX_PUT -/

/-- Bytes that all fit are stored one after the other. -/
theorem execAll_txPut_stored (c : List Byte) (s : State) (hcap : s.cfg.wellFormed) (hr : s.txrdy = false)
    (he : s.txerr = false) (hc : s.txlen.toNat + c.length + 3 ≤ s.cfg.bufCap) :
    execAll (c.map .txPut) s = .next { s with
      txlen := s.txlen + BitVec.ofNat 16 c.length, txbuf := Memory.setAll s.txbuf s.txlen.toNat c } := by
  induction c generalizing s with
  | nil => simp [Memory.setAll]
  | cons b c ih =>
    rw [List.length_cons] at hc
    have hlen : (s.txlen + 1).toNat = s.txlen.toNat + 1 :=
      txlen_add_toNat s 1 hcap (show s.txlen.toNat + 1 ≤ _ by omega)
    rw [List.map_cons, execAll, exec_txPut_stored b s hr he (by omega), andThen_next,
      ih { s with txlen := s.txlen + 1, txbuf := Memory.set s.txbuf s.txlen.toNat b } hcap hr he
        (show (s.txlen + 1).toNat + c.length + 3 ≤ s.cfg.bufCap by omega)]
    rw [List.length_cons, Nat.add_comm c.length, BitVec.ofNat_add, ← BitVec.add_assoc, hlen]
    rfl

/-- Bytes after an error are discarded. -/
theorem execAll_txPut_discarded (c : List Byte) (s : State) (hr : s.txrdy = false) (he : s.txerr = true) :
    execAll (c.map .txPut) s = .next s := by
  induction c with
  | nil => rfl
  | cons b c ih => rw [List.map_cons, execAll, exec_txPut_discarded b s hr he, andThen_next, ih]

/-- Bytes that do not all fit are stored as far as room for the trailer is left; the next one latches the error. -/
theorem execAll_txPut_overflow (c : List Byte) (s : State) (hcap : s.cfg.wellFormed) (hr : s.txrdy = false)
    (he : s.txerr = false) (h0 : s.txlen.toNat + 3 ≤ s.cfg.bufCap)
    (hc : s.cfg.bufCap < s.txlen.toNat + c.length + 3) :
    ∃ t, execAll (c.map .txPut) s = .next t ∧ t = { s with txlen := t.txlen, txbuf := t.txbuf, txerr := true } ∧
      t.txlen.toNat = s.cfg.bufCap - 3 := by
  induction c generalizing s with
  | nil => exact absurd hc (by simpa using h0)
  | cons b c ih =>
    rw [List.length_cons] at hc
    rw [List.map_cons, execAll]
    by_cases hroom : s.txlen.toNat + 4 ≤ s.cfg.bufCap
    · have hlen : (s.txlen + 1).toNat = s.txlen.toNat + 1 :=
        txlen_add_toNat s 1 hcap (show s.txlen.toNat + 1 ≤ _ by omega)
      obtain ⟨t, ht, hframe, htlen⟩ :=
        ih { s with txlen := s.txlen + 1, txbuf := Memory.set s.txbuf s.txlen.toNat b } hcap hr he
          (show (s.txlen + 1).toNat + 3 ≤ s.cfg.bufCap by omega)
          (show s.cfg.bufCap < (s.txlen + 1).toNat + c.length + 3 by omega)
      refine ⟨t, ?_, hframe, htlen⟩
      rw [exec_txPut_stored b s hr he hroom, andThen_next, ht]
    · refine ⟨raiseInvalidCommand s, ?_, rfl, show s.txlen.toNat = s.cfg.bufCap - 3 by omega⟩
      rw [exec_txPut_overflow b s hr he (by omega), andThen_next,
        execAll_txPut_discarded c (raiseInvalidCommand s) hr rfl]

/-! ### SEND -/

/-- A run of one event is the event. -/
theorem execAll_singleton (i : Instr) : execAll [i] = exec i := by
  funext s
  rw [execAll]
  cases exec i s <;> rfl

/-- SEND runs its bytes from a cleared encoder and then TX_END. -/
theorem execAll_send (c : List Byte) (s : State) :
    execAll (expandPseudo (.send c)) s =
      andThen (execAll (c.map .txPut) { s with txlen := 0, txrdy := false, txerr := false }) (exec .txEnd) := by
  rw [expandPseudo_send, execAll_append, execAll_append, execAll, exec_txClr, andThen_next, execAll_nil, andThen_next,
    execAll_singleton]

/-- SEND of a command that fits leaves its frame (41_tx_encoder.md R100). -/
theorem execAll_send_fits (c : List Byte) (s : State) (hcap : s.cfg.wellFormed) (hc : c.length + 3 ≤ s.cfg.bufCap) :
    ∃ t, execAll (expandPseudo (.send c)) s = .next t ∧
      t = { s with txbuf := t.txbuf, txlen := t.txlen, txrdy := true, txerr := false } ∧
      t.txlen.toNat = (outboundFrame c).length ∧
      ∀ j, t.cell .txbuf j = if j < (outboundFrame c).length then (outboundFrame c)[j]? else s.cell .txbuf j := by
  let u : State := { s with
    txlen := 0 + BitVec.ofNat 16 c.length, txrdy := false, txerr := false, txbuf := Memory.setAll s.txbuf 0 c }
  have hrun : execAll (c.map .txPut) { s with txlen := 0, txrdy := false, txerr := false } = .next u :=
    execAll_txPut_stored c _ hcap rfl rfl (show 0 + c.length + 3 ≤ s.cfg.bufCap by omega)
  have hlen : u.txlen.toNat = c.length := toNat_zero_add_ofNat c.length (by have hmax := hcap.2; omega)
  have hroom : u.txlen.toNat + 3 ≤ u.cfg.bufCap := hlen.symm ▸ hc
  have hcell (j : Nat) : u.cell .txbuf j = if j < c.length then (c)[j]? else s.cell .txbuf j := by
    refine (memory_get_setAll s.txbuf 0 j c).trans ?_
    simp [State.cell]
  have hfirst : memReadFirst .txbuf c.length u = c :=
    memReadFirst_of_cell .txbuf c u fun j hj => (hcell j).trans (if_pos hj)
  have hlen' : (afterTrailer u).txlen.toNat = (outboundFrame c).length := by
    rw [outboundFrame_length, ← hlen]
    exact txlen_add_toNat u 3 hcap hroom
  refine ⟨afterTrailer u, ?run, rfl, hlen', fun j => ?cell⟩
  case run =>
    rw [execAll_send, hrun, andThen_next]
    exact execTxEnd_stored u rfl rfl hroom
  case cell =>
    rw [cell_afterTrailer, hlen, hfirst, hcell, outboundFrame_getElem?, outboundFrame_length]
    grind

/-- SEND of a command that does not fit latches the error (41_tx_encoder.md R100). -/
theorem execAll_send_overflow (c : List Byte) (s : State) (hcap : s.cfg.wellFormed)
    (hc : s.cfg.bufCap < c.length + 3) :
    ∃ t, execAll (expandPseudo (.send c)) s = .next t ∧
      t = { s with txbuf := t.txbuf, txlen := t.txlen, txrdy := false, txerr := true } ∧
      t.txlen.toNat = s.cfg.bufCap - 3 := by
  obtain ⟨t, ht, hframe, hlen⟩ := execAll_txPut_overflow c { s with txlen := 0, txrdy := false, txerr := false } hcap
    rfl rfl (Nat.le_of_lt hcap.1) (show s.cfg.bufCap < 0 + c.length + 3 by omega)
  refine ⟨t, ?run, hframe, hlen⟩
  rw [execAll_send, ht, andThen_next, hframe]
  exact exec_txEnd_discarded _ rfl rfl

/-- Settles O27: the command fits and TX_END completes its frame, or it does not and TX_END finds the error latched. -/
theorem sendAssemblesEncodedFrame : Obligations.SendAssemblesEncodedFrame := by
  intro c s hcap
  by_cases hc : c.length + 3 ≤ s.cfg.bufCap
  · obtain ⟨t, ht, hframe, hlen, hcell⟩ := execAll_send_fits c s hcap hc
    have hr : t.txrdy = true := hframe ▸ rfl
    have he : t.txerr = false := hframe ▸ rfl
    rw [encodeCommand_eq_some _ _ hc]
    exact ⟨t, ht, by rw [hr, he]; exact hframe, hr, he, hlen, hcell⟩
  · obtain ⟨t, ht, hframe, hlen⟩ := execAll_send_overflow c s hcap (Nat.lt_of_not_le hc)
    have hr : t.txrdy = false := hframe ▸ rfl
    have he : t.txerr = true := hframe ▸ rfl
    rw [encodeCommand_eq_none _ _ (Nat.lt_of_not_le hc)]
    exact ⟨t, ht, by rw [hr, he]; exact hframe, hr, he, hlen⟩

end Sys2Proof.Machine
end

section
/-!
PROOFS. RST, RD and the layout of `STATUS` (44_host_access.md R141, R142; 10_state.md R23 to R25), and the RX_BYTE and
TICK that leave a receive open or time it out (42_rx_framer.md R114, R119).
-/

namespace Sys2Proof.Machine

/-! ### RST and RD -/

/-- RST resets the registers in every state (44_host_access.md R141). -/
theorem exec_rst (s : State) : exec .rst s = .next (resetRegisters s) := rfl

/-- Settles O41: the words, and `resetRegisters` field by field. -/
theorem rstResult : Obligations.RstResult :=
  ⟨rfl, ⟨_, rfl⟩, fun s => ⟨_, exec_rst s, statusWord_resetRegisters s, rfl⟩⟩

/-- A second RD reads the same: what RD reads does not depend on `RDATA` (20_memory.md R44). -/
theorem exec_rd_again (a : Word) (s : State) :
    exec (.rd a) { s with rdata := readAddress a s } = .next { s with rdata := readAddress a s } :=
  exec_rd a { s with rdata := readAddress a s }

/-- Settles O42: RD stores what it reads in `RDATA`, and a second RD reads the same. -/
theorem rdChangesOnlyRdata : Obligations.RdChangesOnlyRdata :=
  ⟨decode_rd, fun a s => ⟨_, exec_rd a s, rfl, exec_rd_again a s⟩⟩

/-! ### `STATUS` -/

/-- The fields of `STATUS`, each at its bits, for every content of the fields (10_state.md R23). -/
theorem statusWord_fields (s : State) :
    (statusWord s).extractLsb' 0 2 = stCode s.st ∧ (statusWord s).extractLsb' 2 3 = errCode s.err ∧
    (statusWord s).getLsbD 5 = decide (s.mode = .fixed) ∧ (statusWord s).getLsbD 6 = s.txrdy ∧
    (statusWord s).getLsbD 7 = s.txerr ∧ (statusWord s).getLsbD 8 = s.ill ∧ (statusWord s).getLsbD 9 = s.seq := by
  have hword (st : RxState) (err : Option RxError) (mode : Strategy) : ∀ seq ill txerr txrdy : Bool,
      let w : Word := 0#6 ++ BitVec.ofBool seq ++ BitVec.ofBool ill ++ BitVec.ofBool txerr ++ BitVec.ofBool txrdy ++
        modeCode mode ++ errCode err ++ stCode st
      w.extractLsb' 0 2 = stCode st ∧ w.extractLsb' 2 3 = errCode err ∧ w.getLsbD 5 = decide (mode = .fixed) ∧
        w.getLsbD 6 = txrdy ∧ w.getLsbD 7 = txerr ∧ w.getLsbD 8 = ill ∧ w.getLsbD 9 = seq := by
    cases st <;> cases mode <;> rcases err with _ | _ | _ | _ <;> decide
  exact hword s.st s.err s.mode s.seq s.ill s.txerr s.txrdy

/-- Settles O45: the fields, the reserved bits, the register number and the codes of `ST`. -/
theorem statusLayout : Obligations.StatusLayout := by
  refine ⟨statusWord_resetRegisters State.reset, fun s => ⟨exec_rd_register 0x0000 .status s rfl, ?layout⟩⟩
  obtain ⟨hst, herr, hmode, hrdy, htxerr, hill, hseq⟩ := statusWord_fields s
  exact ⟨hst, herr, hmode, hrdy, htxerr, hill, hseq, statusWord_reserved s, rfl, rfl, rfl, rfl⟩

/-- Settles O46: the numbering, read off. -/
theorem errorNumbering : Obligations.ErrorNumbering := ⟨rfl, rfl, rfl, rfl, rfl, rfl, rfl, rfl, rfl⟩

/-! ### Bytes and ticks of an open receive -/

/-- An RX_BYTE that does not end the frame stores its byte (42_rx_framer.md R114). -/
theorem exec_rxByte_stored (b : Byte) (s : State) (hs : s.st = .recv) (hw : s.wptr.toNat < s.cfg.bufCap)
    (hb : ¬ terminates b s) : exec (.rxByte b) s = .next (afterStore b s) :=
  (execRxByte_stored b s hs hw).trans (if_neg hb)

/-- Settles O32: `afterStore` counts the byte and writes its cell. -/
theorem rxByteStoresByte : Obligations.RxByteStoresByte :=
  fun b s hs hw hb => ⟨_, exec_rxByte_stored b s hs hw hb, rfl, cell_afterStore b s⟩

/-- Settles O34: the word, and the three cases of R119. -/
theorem tickResult : Obligations.TickResult := by
  refine ⟨rfl, fun s => ⟨exec_tick_outside s, fun hs ht => ?timeout, fun hs ht => ?counted⟩⟩
  case timeout => exact exec_tick_timeout s hs ((nextTmr_toNat s).symm ▸ ht)
  case counted => exact exec_tick_counted s hs ((nextTmr_toNat s).symm ▸ ht)

end Sys2Proof.Machine
end

section
/-!
PROOFS. Runs of a receive (42_rx_framer.md R121, R122, 70_reset_and_hazards.md R183): the events between which a receive
stays open, whatever the chunking, and those that leave its result.
-/

namespace Sys2Proof.Machine

variable {s t u : State}

/-! ### The result of a receive -/

/-- Two states with the same receive result (70_reset_and_hazards.md R183). -/
structure SameResult (s t : State) : Prop where
  st : t.st = s.st
  err : t.err = s.err
  mode : t.mode = s.mode
  wptr : t.wptr = s.wptr
  flen : t.flen = s.flen
  paylen : t.paylen = s.paylen
  tmr : t.tmr = s.tmr
  buf : t.buf = s.buf

theorem SameResult.refl (s : State) : SameResult s s := ⟨rfl, rfl, rfl, rfl, rfl, rfl, rfl, rfl⟩

theorem SameResult.trans (h : SameResult s t) (k : SameResult t u) : SameResult s u :=
  ⟨k.st.trans h.st, k.err.trans h.err, k.mode.trans h.mode, k.wptr.trans h.wptr, k.flen.trans h.flen,
    k.paylen.trans h.paylen, k.tmr.trans h.tmr, k.buf.trans h.buf⟩

/-- Outside a receive only RST and RX_START change the result: RX_BYTE and TICK change nothing at all, and no other
event writes its registers (60_exceptions.md R161). -/
theorem exec_keeps_result (i : Instr) (hs : s.st ≠ .recv) (hrst : i ≠ .rst) (hstart : ∀ m, i ≠ .rxStart m)
    (h : exec i s = .next t) : SameResult s t := by
  have e := exec_effect i s t h
  cases i with
  | rst => exact absurd rfl hrst
  | rxStart m => exact absurd rfl (hstart m)
  | rxByte b =>
    obtain rfl := Host.Outcome.next.inj ((exec_rxByte_outside b s hs).symm.trans h)
    exact .refl _
  | tick =>
    obtain rfl := Host.Outcome.next.inj ((exec_tick_outside s hs).symm.trans h)
    exact .refl _
  | nop | crcClr | crcByte b | crcFin | txClr | rd a => obtain rfl := e; exact ⟨rfl, rfl, rfl, rfl, rfl, rfl, rfl, rfl⟩
  | txPut b =>
    obtain ⟨-, rfl⟩ | ⟨-, -, rfl⟩ | ⟨-, -, -, rfl⟩ | ⟨-, -, -, rfl⟩ := e <;>
      exact ⟨rfl, rfl, rfl, rfl, rfl, rfl, rfl, rfl⟩
  | txEnd =>
    obtain ⟨-, rfl⟩ | ⟨-, -, rfl⟩ | ⟨-, -, -, rfl⟩ := e <;> exact ⟨rfl, rfl, rfl, rfl, rfl, rfl, rfl, rfl⟩
  | setTlimit v | setExplen v =>
    obtain ⟨-, rfl⟩ | ⟨-, rfl⟩ := e <;> exact ⟨rfl, rfl, rfl, rfl, rfl, rfl, rfl, rfl⟩

/-- A terminal state is no receive (10_state.md R24). -/
theorem ne_recv_of_terminal (h : Terminal s) : s.st ≠ .recv := by
  rcases h with h | h <;> simp [h]

/-- A run without RST and RX_START completes and leaves the result. -/
theorem execAll_keeps_result (is : List Instr) (h : BlockInv s) (hs : s.st ≠ .recv) (hrst : .rst ∉ is)
    (hstart : ∀ m, .rxStart m ∉ is) : ∃ t, execAll is s = .next t ∧ SameResult s t := by
  induction is generalizing s with
  | nil => exact ⟨s, rfl, .refl s⟩
  | cons i is ih =>
    obtain ⟨hi, hrst⟩ := List.ne_and_not_mem_of_not_mem_cons hrst
    obtain ⟨t, ht⟩ := h.exec_completes i
    have hkeep : SameResult s t :=
      exec_keeps_result i hs hi.symm (fun m e => hstart m (e ▸ List.mem_cons_self)) ht
    obtain ⟨u, hu, hrun⟩ := ih (h.exec i ht) (hkeep.st ▸ hs) hrst fun m hm => hstart m (List.mem_cons_of_mem i hm)
    exact ⟨u, by rw [execAll, ht, andThen_next, hu], hkeep.trans hrun⟩

/-- Settles O39: a terminal state is no receive, so no event of the run writes the result. -/
theorem terminalResultLasts : Obligations.TerminalResultLasts := by
  intro s is h hterm hrst hstart
  obtain ⟨t, ht, hkeep⟩ := execAll_keeps_result is h (ne_recv_of_terminal hterm) hrst hstart
  exact ⟨t, ht, hkeep.st, hkeep.err, hkeep.mode, hkeep.wptr, hkeep.flen, hkeep.paylen, hkeep.tmr, hkeep.buf⟩

/-! ### A receive that stays open -/

/-- The receive that is open in `s` is still open in `t`, after some bytes (of which a full buffer drops the rest) and
some ticks, with everything it was opened with. -/
structure StillOpen (s t : State) (bytes ticks : Nat) : Prop where
  st : t.st = .recv
  cfg : t.cfg = s.cfg
  mode : t.mode = s.mode
  tlimit : t.tlimit = s.tlimit
  explen : t.explen = s.explen
  wptr : t.wptr.toNat = min (s.wptr.toNat + bytes) s.cfg.bufCap
  tmr : t.tmr.toNat = s.tmr.toNat + ticks

theorem StillOpen.trans {a b c d : Nat} (h : StillOpen s t a b) (k : StillOpen t u c d) :
    StillOpen s u (a + c) (b + d) where
  st := k.st
  cfg := k.cfg.trans h.cfg
  mode := k.mode.trans h.mode
  tlimit := k.tlimit.trans h.tlimit
  explen := k.explen.trans h.explen
  wptr := by rw [k.wptr, h.wptr, h.cfg]; omega
  tmr := by rw [k.tmr, h.tmr, Nat.add_assoc]

/-- A state that differs from a receive in other registers only is the same receive. -/
theorem StillOpen.of_eq (h : BlockInv s) (hs : s.st = .recv) (hst : t.st = s.st) (hcfg : t.cfg = s.cfg)
    (hmode : t.mode = s.mode) (htl : t.tlimit = s.tlimit) (hel : t.explen = s.explen) (hw : t.wptr = s.wptr)
    (htmr : t.tmr = s.tmr) : StillOpen s t 0 0 :=
  ⟨hst.trans hs, hcfg, hmode, htl, hel, by rw [hw]; exact (Nat.min_eq_left h.wptrInBuffer).symm, by rw [htmr]; rfl⟩

/-- TICK below the window counts one (42_rx_framer.md R119, R122). -/
theorem nextTmr_of_lt_window (ht : s.tmr.toNat + 1 < window s) :
    (nextTmr s).toNat = s.tmr.toNat + 1 ∧ (nextTmr s).toNat < s.tlimit.toNat := by
  have hmax := s.tlimit.isLt
  rw [nextTmr_toNat]
  unfold window at ht
  omega

/-- A receive stays open under every event but RST, a byte that ends its frame and the TICK that ends its window
(42_rx_framer.md R120). -/
theorem exec_keeps_open (i : Instr) (h : BlockInv s) (hs : s.st = .recv) (hrst : i ≠ .rst)
    (hb : ∀ b, i = .rxByte b → ¬ terminates b s) (ht : i = .tick → s.tmr.toNat + 1 < window s)
    (hi : exec i s = .next t) : StillOpen s t (bytesOf [i]).length (ticksOf [i]) := by
  have e := exec_effect i s t hi
  cases i with
  | rst => exact absurd rfl hrst
  | rxByte b =>
    obtain ⟨hne, -⟩ | ⟨-, hw, rfl⟩ | ⟨-, hw, -, rfl⟩ | ⟨-, -, hend, -⟩ := e
    · exact absurd hs hne
    · exact ⟨hs, rfl, rfl, rfl, rfl, by rw [hw]; exact (Nat.min_eq_right (Nat.le_add_right _ _)).symm, rfl⟩
    · exact ⟨hs, rfl, rfl, rfl, rfl, (wptr_add_one_toNat s h.capLegal hw).trans (Nat.min_eq_left hw).symm, rfl⟩
    · exact absurd hend (hb b rfl)
  | tick =>
    obtain ⟨hone, hlt⟩ := nextTmr_of_lt_window (ht rfl)
    obtain rfl := Host.Outcome.next.inj ((exec_tick_counted s hs hlt).symm.trans hi)
    exact ⟨hs, rfl, rfl, rfl, rfl, (Nat.min_eq_left h.wptrInBuffer).symm, hone⟩
  | setTlimit v =>
    obtain rfl := Host.Outcome.next.inj ((exec_setTlimit_refused v s hs).symm.trans hi)
    exact .of_eq h hs rfl rfl rfl rfl rfl rfl rfl
  | setExplen v =>
    obtain rfl := Host.Outcome.next.inj ((exec_setExplen_refused v s hs).symm.trans hi)
    exact .of_eq h hs rfl rfl rfl rfl rfl rfl rfl
  | rxStart m =>
    obtain rfl := Host.Outcome.next.inj ((exec_rxStart_refused m s hs).symm.trans hi)
    exact .of_eq h hs rfl rfl rfl rfl rfl rfl rfl
  | nop | crcClr | crcByte b | crcFin | txClr | rd a => obtain rfl := e; exact .of_eq h hs rfl rfl rfl rfl rfl rfl rfl
  | txPut b =>
    obtain ⟨-, rfl⟩ | ⟨-, -, rfl⟩ | ⟨-, -, -, rfl⟩ | ⟨-, -, -, rfl⟩ := e <;>
      exact .of_eq h hs rfl rfl rfl rfl rfl rfl rfl
  | txEnd =>
    obtain ⟨-, rfl⟩ | ⟨-, -, rfl⟩ | ⟨-, -, -, rfl⟩ := e <;> exact .of_eq h hs rfl rfl rfl rfl rfl rfl rfl

/-- The bytes of a run are those of its first event and those of the rest. -/
theorem bytesOf_cons (i : Instr) (is : List Instr) : bytesOf (i :: is) = bytesOf [i] ++ bytesOf is := by
  cases i <;> rfl

/-- The ticks of a run are those of its first event and those of the rest. -/
theorem ticksOf_cons (i : Instr) (is : List Instr) : ticksOf (i :: is) = ticksOf [i] + ticksOf is :=
  List.countP_append (l₁ := [i])

/-- A receive stays open along a run without RST whose bytes do not end its frame and whose ticks do not end its
window, whatever stands between (42_rx_framer.md R121). -/
theorem execAll_keeps_open (is : List Instr) (h : BlockInv s) (hs : s.st = .recv) (hrst : .rst ∉ is)
    (hscan : s.mode = .scan → 0x0D ∉ bytesOf is)
    (hfixed : s.mode = .fixed → s.wptr.toNat + (bytesOf is).length < s.explen.toNat)
    (hticks : s.tmr.toNat + ticksOf is < window s) :
    ∃ t, execAll is s = .next t ∧ BlockInv t ∧ StillOpen s t (bytesOf is).length (ticksOf is) := by
  induction is generalizing s with
  | nil => exact ⟨s, rfl, h, .of_eq h hs rfl rfl rfl rfl rfl rfl rfl⟩
  | cons i is ih =>
    obtain ⟨hi, hrst⟩ := List.ne_and_not_mem_of_not_mem_cons hrst
    simp only [bytesOf_cons i is, ticksOf_cons i is, List.mem_append, List.length_append, not_or]
      at hscan hfixed hticks ⊢
    obtain ⟨t, ht⟩ := h.exec_completes i
    have hopen : StillOpen s t (bytesOf [i]).length (ticksOf [i]) := by
      refine exec_keeps_open i h hs hi.symm ?byte ?tick ht
      case byte =>
        rintro b rfl (⟨hm, rfl⟩ | ⟨hm, he⟩)
        · exact (hscan hm).1 List.mem_cons_self
        · have hlt : s.wptr.toNat + (1 + (bytesOf is).length) < s.explen.toNat := hfixed hm
          have hlen : (s.wptr.toNat + 1) % 2 ^ 16 = s.explen.toNat := congrArg BitVec.toNat he
          omega
      case tick =>
        rintro rfl
        have hone : ticksOf [.tick] = 1 := rfl
        omega
    have hwin : window t = window s := by unfold window; rw [hopen.tlimit]
    obtain ⟨u, hu, hinv, hrest⟩ := ih (h.exec i ht) hopen.st hrst
      (fun hm => (hscan (hopen.mode.symm.trans hm)).2)
      (fun hm => by
        have hlt := hfixed (hopen.mode.symm.trans hm)
        rw [hopen.wptr, hopen.explen]
        omega)
      (by rw [hopen.tmr, hwin]; omega)
    exact ⟨u, by rw [execAll, ht, andThen_next, hu], hinv, hopen.trans hrest⟩

/-! ### The end of a receive -/

/-- The RX_BYTE that ends a frame sets its length and leaves a terminal state that is no timeout
(43_validator.md R130). -/
theorem exec_rxByte_ends (b : Byte) (s : State) (hc : s.cfg.wellFormed) (hs : s.st = .recv)
    (hw : s.wptr.toNat < s.cfg.bufCap) (hb : terminates b s) :
    ∃ t, exec (.rxByte b) s = .next t ∧ t.flen = s.wptr + 1 ∧ Terminal t ∧ t.err ≠ some .readTimeout := by
  obtain ⟨t, ht⟩ := finish_completes (s.wptr + 1) (afterStore b s) (by rw [wptr_add_one_toNat s hc hw]; exact hw)
  obtain ⟨hframe, hend⟩ := finish_frame _ _ _ ht
  refine ⟨t, (exec_rxByte_terminated b s hs hw hb).trans ht, by rw [hframe], ?terminal, ?noTimeout⟩
  case terminal => exact hend.imp And.left And.left
  case noTimeout => obtain ⟨-, he⟩ | ⟨-, he | he⟩ := hend <;> simp [he]

/-- A run and one more event. -/
theorem execAll_concat (is : List Instr) (i : Instr) (h : execAll is s = .next t) :
    execAll (is ++ [i]) s = exec i t := by
  rw [execAll_append, h, andThen_next, execAll_singleton]

/-- Settles O36: the receive stays open up to the terminator, with every byte stored. -/
theorem scanLengthIgnoresChunking : Obligations.ScanLengthIgnoresChunking := by
  rintro s before h ⟨hs, hm, hw, htmr⟩ hrst hscan hroom hticks
  have hw0 : s.wptr.toNat = 0 := congrArg BitVec.toNat hw
  have htmr0 : s.tmr.toNat = 0 := congrArg BitVec.toNat htmr
  obtain ⟨t, ht, hinv, hopen⟩ := execAll_keeps_open before h hs hrst (fun _ => hscan)
    (fun hf => by cases hm.symm.trans hf) (by omega)
  have hwptr : t.wptr.toNat = (bytesOf before).length := by
    rw [hopen.wptr]
    omega
  have hlt : t.wptr.toNat < t.cfg.bufCap := by rw [hwptr, hopen.cfg]; exact hroom
  obtain ⟨u, hu, hflen, hend⟩ := exec_rxByte_ends 0x0D t hinv.capLegal hopen.st hlt (.inl ⟨hopen.mode.trans hm, rfl⟩)
  refine ⟨u, (execAll_concat before _ ht).trans hu, ?_, hend⟩
  rw [hflen, wptr_add_one_toNat t hinv.capLegal hlt, hwptr]

/-- Settles O37: the receive stays open up to the byte that makes `WPTR` the length. -/
theorem fixedLengthIgnoresChunking : Obligations.FixedLengthIgnoresChunking := by
  rintro s before b h ⟨hs, hm, hw, htmr⟩ hrst hlen hticks
  have hw0 : s.wptr.toNat = 0 := congrArg BitVec.toNat hw
  have htmr0 : s.tmr.toNat = 0 := congrArg BitVec.toNat htmr
  obtain ⟨-, hcap, -⟩ := h.fixedLengthAhead hs hm
  obtain ⟨t, ht, hinv, hopen⟩ := execAll_keeps_open before h hs hrst (fun hf => by cases hm.symm.trans hf)
    (fun _ => by omega) (by omega)
  have hwptr : t.wptr.toNat = (bytesOf before).length := by
    rw [hopen.wptr]
    omega
  have hlt : t.wptr.toNat < t.cfg.bufCap := by rw [hwptr, hopen.cfg]; omega
  have hnext : t.wptr + 1 = s.explen :=
    BitVec.eq_of_toNat_eq (by rw [wptr_add_one_toNat t hinv.capLegal hlt, hwptr, hlen])
  obtain ⟨u, hu, hflen, hend⟩ := exec_rxByte_ends b t hinv.capLegal hopen.st hlt
    (.inr ⟨hopen.mode.trans hm, hnext.trans hopen.explen.symm⟩)
  exact ⟨u, (execAll_concat before _ ht).trans hu, hflen.trans hnext, hend⟩

/-- Settles O38: the receive stays open up to the last TICK of the window, which finds the counter one below it. -/
theorem timeoutEndsTheWindow : Obligations.TimeoutEndsTheWindow := by
  rintro s mode before h ⟨hs, hm, hw, htmr⟩ hrst hscan hfixed hticks
  have hw0 : s.wptr.toNat = 0 := congrArg BitVec.toNat hw
  have htmr0 : s.tmr.toNat = 0 := congrArg BitVec.toNat htmr
  obtain ⟨t, ht, hinv, hopen⟩ := execAll_keeps_open before h hs hrst (fun hf => hscan (hm.symm.trans hf))
    (fun hf => by have hlt := hfixed (hm.symm.trans hf); omega) (by omega)
  have hlast : (nextTmr t).toNat = window s := by
    have hmax := s.tlimit.isLt
    rw [nextTmr_toNat, hopen.tmr]
    unfold window at hticks ⊢
    omega
  have hlimit : t.tlimit.toNat ≤ (nextTmr t).toNat := by rw [hlast, hopen.tlimit]; exact Nat.le_max_left _ _
  obtain ⟨hflen, hpaylen⟩ := hinv.flen_paylen_of_recv hopen.st
  exact ⟨_, (execAll_concat before _ ht).trans (exec_tick_timeout t hopen.st hlimit), rfl, rfl, hlast, hflen, hpaylen⟩

end Sys2Proof.Machine
end

section
/-!
PROOFS. The round trip (41_tx_encoder.md R106 (b)): a frame that the encoder makes of a marked payload is received with
that payload.
-/

namespace Sys2Proof.Machine

/-- Bytes without a terminator that fit are stored one after the other by a scan-mode receive
(42_rx_framer.md R114, R115). -/
theorem execAll_rxByte_stored (bytes : List Byte) (s : State) (hcap : s.cfg.wellFormed) (hs : s.st = .recv)
    (hm : s.mode = .scan) (hroom : s.wptr.toNat + bytes.length ≤ s.cfg.bufCap) (hscan : 0x0D ∉ bytes) :
    execAll (bytes.map .rxByte) s = .next { s with
      wptr := s.wptr + BitVec.ofNat 16 bytes.length, buf := Memory.setAll s.buf s.wptr.toNat bytes } := by
  induction bytes generalizing s with
  | nil => simp [Memory.setAll]
  | cons b bytes ih =>
    rw [List.length_cons] at hroom
    obtain ⟨hb, hscan⟩ := List.ne_and_not_mem_of_not_mem_cons hscan
    have hw : s.wptr.toNat < s.cfg.bufCap := by omega
    have hlen := wptr_add_one_toNat s hcap hw
    have hopen : ¬ terminates b s := by
      rintro (⟨-, rfl⟩ | ⟨hf, -⟩)
      · exact hb rfl
      · cases hm.symm.trans hf
    rw [List.map_cons, execAll, exec_rxByte_stored b s hs hw hopen, andThen_next,
      ih (afterStore b s) hcap hs hm (show (s.wptr + 1).toNat + bytes.length ≤ s.cfg.bufCap by omega) hscan,
      List.length_cons, Nat.add_comm bytes.length, BitVec.ofNat_add, ← BitVec.add_assoc, Memory.setAll, ← hlen]
    rfl

/-- The bytes of an inbound frame before its terminator. -/
def beforeTerminator (p : List Byte) : List Byte :=
  startMarker :: p ++ [highByte (crc16 (startMarker :: p)), lowByte (crc16 (startMarker :: p))]

/-- An inbound frame ends in its terminator (30_encoding.md R61). -/
theorem inboundFrame_eq_append (p : List Byte) : inboundFrame p = beforeTerminator p ++ [0x0D] := by
  simp [inboundFrame, beforeTerminator, terminator]

theorem beforeTerminator_length (p : List Byte) : (beforeTerminator p).length = p.length + 3 := by
  simp [beforeTerminator]

/-- The only terminator in the frame of a payload without one is the last byte: the escape keeps it out of the CRC
(40_crc.md R93 (b)). -/
theorem terminator_not_mem_beforeTerminator (p : List Byte) (hp : 0x0D ∉ p) : 0x0D ∉ beforeTerminator p := by
  obtain ⟨hhigh, hlow⟩ := escapedCrcAvoidsReservedBytes (startMarker :: p)
  have hne (x : Byte) (hx : reservedByte x = false) : 0x0D ≠ x := by
    rintro rfl
    cases hx
  have hmark : (0x0D : Byte) ≠ startMarker := by decide
  simpa [beforeTerminator] using ⟨hmark, hp, hne _ hhigh, hne _ hlow⟩

/-- The terminator behind the bytes of an inbound frame makes the receiver accept the frame: it is judged by the start
marker, the length and the CRC pair it was made with (43_validator.md R130, R134). -/
theorem exec_terminator_accepts (p : List Byte) (s : State) (hcap : s.cfg.wellFormed) (hs : s.st = .recv)
    (hm : s.mode = .scan) (hw : s.wptr.toNat = (beforeTerminator p).length) (hroom : p.length + 4 ≤ s.cfg.bufCap)
    (hcell : ∀ j, j < (beforeTerminator p).length → s.cell .buf j = (beforeTerminator p)[j]?) :
    ∃ t, exec (.rxByte 0x0D) s = .next t ∧ t.wptr = s.wptr + 1 ∧ t.flen = s.wptr + 1 ∧ t.st = .done ∧ t.err = none ∧
      t.paylen.toNat = p.length ∧
      ∀ j, t.cell .buf j =
        if j = p.length + 1 then some 0x00 else if j = s.wptr.toNat then some 0x0D else s.cell .buf j := by
  have hframe : memReadFirst .buf s.wptr.toNat s ++ [0x0D] = inboundFrame p := by
    rw [hw, memReadFirst_of_cell .buf _ s hcell, inboundFrame_eq_append]
  have hlt : s.wptr.toNat < s.cfg.bufCap := by rw [hw, beforeTerminator_length]; exact hroom
  obtain ⟨t, ht, hkeep, hjudged⟩ := rxByteJudgesFrame 0x0D s hcap hs hlt (.inl ⟨hm, rfl⟩)
  obtain ⟨hlen, htake, hhigh, hlow, -⟩ := wireFormats.2 p
  have hfirst : (inboundFrame p)[0]? = some 0x28 := rfl
  simp only [hframe, hlen, show p.length + 4 - 3 = p.length + 1 by omega,
    show p.length + 4 - 2 = p.length + 2 by omega, htake] at hjudged
  rw [if_neg (not_not.mpr hfirst), if_neg (by omega), if_pos ⟨hhigh, hlow⟩] at hjudged
  exact ⟨t, ht, hkeep ▸ rfl, hkeep ▸ rfl, hjudged⟩

/-- Settles O35: the bytes before the terminator are stored, and the terminator makes the receiver accept them. -/
theorem encodedFrameIsAccepted : Obligations.EncodedFrameIsAccepted := by
  rintro p s hcap ⟨hs, hm, hw, -⟩ hroom hp
  refine ⟨?encoded, ?_⟩
  case encoded => rw [inboundFrame_eq_outboundFrame]; exact encodeCommand_eq_some _ _ hroom
  have hw0 : s.wptr.toNat = 0 := congrArg BitVec.toNat hw
  have hlen := beforeTerminator_length p
  let u : State := { s with
    wptr := s.wptr + BitVec.ofNat 16 (beforeTerminator p).length,
    buf := Memory.setAll s.buf s.wptr.toNat (beforeTerminator p) }
  have hrun : execAll ((beforeTerminator p).map .rxByte) s = .next u :=
    execAll_rxByte_stored _ s hcap hs hm (by omega) (terminator_not_mem_beforeTerminator p hp)
  have hwptr : u.wptr.toNat = (beforeTerminator p).length := by
    have hmax := hcap.2
    change (s.wptr + BitVec.ofNat 16 (beforeTerminator p).length).toNat = _
    rw [hw, toNat_zero_add_ofNat _ (by omega)]
  have hcell (j : Nat) : u.cell .buf j =
      if j < (beforeTerminator p).length then (beforeTerminator p)[j]? else s.cell .buf j := by
    refine (memory_get_setAll s.buf s.wptr.toNat j (beforeTerminator p)).trans ?_
    simp [hw, State.cell]
  obtain ⟨t, ht, hwptr', hflen, hst, herr, hpaylen, hcell'⟩ :=
    exec_terminator_accepts p u hcap hs hm hwptr hroom fun j hj => (hcell j).trans (if_pos hj)
  refine ⟨t, ?run, hst, herr, ?flen, hwptr'.trans hflen.symm, hpaylen, fun j hj => ?payload, ?null⟩
  case run =>
    rw [expandPseudo_feed, inboundFrame_eq_append, List.map_append]
    exact (execAll_concat _ _ hrun).trans ht
  case flen =>
    rw [hflen, wptr_add_one_toNat u hcap (by rw [hwptr, hlen]; exact hroom), hwptr, hlen]
  case payload =>
    rw [hcell', if_neg (by omega), if_neg (by omega), hcell, if_pos (by omega)]
    exact List.getElem?_append_left (Nat.succ_lt_succ hj)
  case null => rw [hcell', if_pos rfl]

end Sys2Proof.Machine
end
